-- ==== Sys2Proof/Word.lean ====
section
/-! DEFINITION. The word types of RWC and their plainest arithmetic: 16-bit units (00_scope.md R7), the 32-bit host
and command word (R11, 30_encoding.md R70), the 64-bit operand and result registers (10_state.md R32 to R34). -/

namespace Sys2Proof

/-- One 16-bit element of `UNIT[]` or `OUT[]` (00_scope.md R7). -/
abbrev Unit16 := BitVec 16

/-- One 32-bit host access or command word (00_scope.md R11, 30_encoding.md R70). -/
abbrev Word32 := BitVec 32

/-- One 64-bit operand or result register (10_state.md R32 to R34). -/
abbrev Word64 := BitVec 64

end Sys2Proof
end

