-- ==== Sys2Proof/Config.lean ====
section
/-! DEFINITION. What is fixed when an RWC instance is built, the parameters of 00_scope.md R6 (each with all its
values and the default the spec decides), and the free values of R13: opaque constants nothing can evaluate. -/

namespace Sys2Proof.Config

/-- `P_LE_READING` (00_scope.md R6, 40_datapath.md R94): what "LittleEndian: reversed" reverses. -/
inductive LeReading where
  | unitSwap
  | byteReverse
deriving DecidableEq, Repr

/-- `P_WO64` (00_scope.md R6, 40_datapath.md R93): what word orders CDAB and DCBA do to four units. -/
inductive Wo64 where
  | reverse4
  | pairSwap
deriving DecidableEq, Repr

/-- `P_LEGACY64` (00_scope.md R6, 40_datapath.md R108): what the legacy 64-bit integer path computes. -/
inductive Legacy64 where
  | reinterpret
  | arith
deriving DecidableEq, Repr

/-- `P_ROUND` (00_scope.md R6, 40_datapath.md R104): the tie rule of the integer encode. -/
inductive RoundMode where
  | tiesEven
  | tiesAway
  | tiesUp
deriving DecidableEq, Repr

/-- `P_CLAMP_RULE` (00_scope.md R6, 43_scaler.md R160): how the two clamp policies combine. -/
inductive ClampRule where
  | precedence
  | disjunction
deriving DecidableEq, Repr

/-- The parameters of 00_scope.md R6, fixed for the life of an instance. `P_WIN` is fixed at 256 and stands in the
type of the unit arrays. `busErrorSignalled` is the platform's: whether the host bus can carry the error response of
60_exceptions.md R202 (notes/assumptions/6.md). The field defaults are the spec's defaults. -/
structure Params where
  letterBswap : Bool := true
  leReading : LeReading := .unitSwap
  wo64 : Wo64 := .reverse4
  legacy64 : Legacy64 := .reinterpret
  round : RoundMode := .tiesEven
  clampRule : ClampRule := .precedence
  busErrorSignalled : Bool := true
deriving DecidableEq, Repr

/-- Every parameter at the default of 00_scope.md R6. -/
def defaults : Params where

/-- The free bits of the n-th `drawNaN64()` (00_scope.md R13). No body: no proof can see the value. The draw itself
(`Machine.drawNaN64`) turns these bits into a NaN, and every NaN pattern is the draw of some bits. -/
opaque freeBits64 : Nat → BitVec 64

/-- The free bits of the n-th `drawNaN32()` (00_scope.md R13). -/
opaque freeBits32 : Nat → BitVec 32

end Sys2Proof.Config
end

