-- ==== Sys2Proof/Machine/State.lean ====
section
/-! DEFINITION. The state of an RWC instance as plain data: the registers of 10_state.md R20, the reset line of
70_reset_and_hazards.md R220, and four fields of the model's own (the host's pending events, the bus response, the
draw counter, the build parameters), each with a row in notes/assumptions. -/

namespace Sys2Proof.Machine

open Sys2Proof.Config

/-- The codes of `RES_TYPE` (10_state.md R31); codes 6 and 7 are never produced. -/
inductive ResType where
  | none
  | int
  | uint
  | f64
  | bool
  | str
deriving DecidableEq, Repr

/-- One thing the outside world does to RWC: a bus access at a byte offset, `width` bits wide (00_scope.md R11,
20_memory.md R52), or a new level of the reset line (70_reset_and_hazards.md R220). The data of a write is held for
the one legal width. -/
inductive HostEvent where
  | read (off width : Nat)
  | write (off width : Nat) (data : BitVec 32)
  | resetLine (asserted : Bool)
deriving DecidableEq, Repr

/-- What the host bus carried back for the last access served (00_scope.md R11, 60_exceptions.md R202). -/
inductive Response where
  | none
  | data (w : BitVec 32)
  | done
  | busErr
deriving DecidableEq, Repr

/-- An RWC instance. Fields without a note are registers of 10_state.md R20, held in their defined bits (the others
read as zero). `ID` is hard-wired (R21) and stands in `readReg`. -/
structure State where
  /-- `CTRL` (R22). -/
  ctrl : BitVec 3
  /-- `STATUS` (R26). -/
  status : BitVec 4
  /-- `CMD` (R27). -/
  cmd : BitVec 32
  /-- `SCFG` (R28). -/
  scfg : BitVec 1
  /-- `RAW_LEN` (R29). -/
  rawLen : BitVec 9
  /-- `OUT_LEN` (R30). -/
  outLen : BitVec 9
  /-- `RES_TYPE` (R31). -/
  resType : ResType
  /-- `RAW_LO` (R33). -/
  rawLo : BitVec 64
  /-- `RAW_HI` (R33). -/
  rawHi : BitVec 64
  /-- `ENG_LO` (R33). -/
  engLo : BitVec 64
  /-- `ENG_HI` (R33). -/
  engHi : BitVec 64
  /-- `VAL` (R34). -/
  val : BitVec 64
  /-- `RES` (R32). -/
  res : BitVec 64
  /-- `UNIT[0..255]` (R35). -/
  unit : Vector (BitVec 16) 256
  /-- `OUT[0..255]` (R36). -/
  out : Vector (BitVec 16) 256
  /-- Whether the reset line is asserted (60_exceptions.md R212, 70_reset_and_hazards.md R220). -/
  inReset : Bool
  /-- The model's own: the host events not yet served, oldest first (notes/assumptions/3.md). -/
  pending : List HostEvent
  /-- The model's own: the response to the last access served (notes/assumptions/4.md). -/
  response : Response
  /-- The model's own: how many free NaN draws commands have taken (notes/assumptions/1.md). -/
  draws : Nat
  /-- The model's own: the parameters of 00_scope.md R6, which no step changes (notes/assumptions/2.md). -/
  cfg : Params
deriving DecidableEq, Repr

/-- Why the machine stops. -/
inductive Fault where
  /-- Raised by `serve` (Machine/Bus.lean) when the host's access is at an offset outside the 4096-byte window
  (20_memory.md R50): it is no access to RWC, and the spec says nothing of it. Safe: the model stops. -/
  | outsideWindow
deriving DecidableEq, Repr

/-- Why an instruction has no meaning. -/
inductive Refusal where
  /-- Raised by an arm of `exec` for an instruction without a meaning; no arm raises it. Safe: the model stops. -/
  | notModelled (mnemonic : String)
deriving DecidableEq, Repr

/-- The machine right after reset (70_reset_and_hazards.md R221): the line released, every register zero. The host
has issued nothing yet, and the parameters are at the defaults of 00_scope.md R6. -/
def State.reset : State where
  ctrl := 0
  status := 0
  cmd := 0
  scfg := 0
  rawLen := 0
  outLen := 0
  resType := .none
  rawLo := 0
  rawHi := 0
  engLo := 0
  engHi := 0
  val := 0
  res := 0
  unit := Vector.replicate 256 0
  out := Vector.replicate 256 0
  inReset := false
  pending := []
  response := .none
  draws := 0
  cfg := Config.defaults

end Sys2Proof.Machine
end

