-- ==== Sys2Proof/Machine/Flags.lean ====
section
/-! DEFINITION. The flags of `STATUS` (10_state.md R26) and the one operation that sets them for a legal command
(40_datapath.md R107). -/

namespace Sys2Proof.Machine

/-- `STATUS.ILL` (10_state.md R26). -/
def State.ill (s : State) : Bool := s.status.getLsbD 0

/-- `STATUS.SHORT` (10_state.md R26). -/
def State.short (s : State) : Bool := s.status.getLsbD 1

/-- `STATUS.DEGEN` (10_state.md R26). -/
def State.degen (s : State) : Bool := s.status.getLsbD 2

/-- `STATUS.SAT` (10_state.md R26). -/
def State.sat (s : State) : Bool := s.status.getLsbD 3

/-- The status word of a legal command (40_datapath.md R107): ILL = 0. -/
def statusWord (short degen sat : Bool) : BitVec 4 :=
  BitVec.ofBool sat ++ BitVec.ofBool degen ++ BitVec.ofBool short ++ 0#1

/-- `setStatus(short, degen, sat)` (40_datapath.md R107): the whole of `STATUS` is replaced (10_state.md R26). -/
def State.setStatus (s : State) (short degen sat : Bool) : State := { s with status := statusWord short degen sat }

end Sys2Proof.Machine
end

