-- ==== Sys2Proof/Syntax.lean ====
section
/-! DEFINITION. The commands of RWC (30_encoding.md R72, R73, R79): one constructor of `Instr` per row of
spec/opcode_table.json. A field of the command word that its row ignores (R79) is kept in the constructor, so that an
instruction determines its word (notes/assumptions/10.md). -/

namespace Sys2Proof

/-- `BO` (30_encoding.md R74). -/
inductive ByteOrder where
  | be
  | le
deriving DecidableEq, Repr

/-- `WO` (30_encoding.md R75). -/
inductive WordOrder where
  | abcd
  | cdab
  | badc
  | dcba
deriving DecidableEq, Repr

/-- `KIND` (30_encoding.md R73), in the order of the codes. -/
inductive Kind where
  | i16
  | u16
  | i32
  | u32
  | i64
  | u64
  | f32
  | f64
  | bool
  | str
deriving DecidableEq, Repr

/-- A command's name as 30_encoding.md R83 writes it: the operation of R72 and, where it has one, the kind. -/
inductive Mnemonic where
  | nop
  | dec (k : Kind)
  | enc (k : Kind)
  | toEng
  | toRaw
  | decs (k : Kind)
  | encs (k : Kind)
deriving DecidableEq, Repr

/-- The commands. `off` is the unit offset `OFFSET` (R76), `n` the string length `SLEN + 1` (R77). -/
inductive Instr where
  /-- NOP (44_control.md R190). -/
  | nop
  /-- DEC.I16 (41_decode.md R121); BO and WO ignored. -/
  | decI16 (bo : ByteOrder) (wo : WordOrder) (off : Nat)
  /-- DEC.U16 (41_decode.md R122); BO and WO ignored. -/
  | decU16 (bo : ByteOrder) (wo : WordOrder) (off : Nat)
  /-- DEC.I32 (41_decode.md R123). -/
  | decI32 (bo : ByteOrder) (wo : WordOrder) (off : Nat)
  /-- DEC.U32 (41_decode.md R124). -/
  | decU32 (bo : ByteOrder) (wo : WordOrder) (off : Nat)
  /-- DEC.I64 (41_decode.md R125). -/
  | decI64 (bo : ByteOrder) (wo : WordOrder) (off : Nat)
  /-- DEC.U64 (41_decode.md R126). -/
  | decU64 (bo : ByteOrder) (wo : WordOrder) (off : Nat)
  /-- DEC.F32 (41_decode.md R127). -/
  | decF32 (bo : ByteOrder) (wo : WordOrder) (off : Nat)
  /-- DEC.F64 (41_decode.md R128). -/
  | decF64 (bo : ByteOrder) (wo : WordOrder) (off : Nat)
  /-- DEC.BOOL (41_decode.md R129); BO, WO and OFFSET ignored. -/
  | decBool (bo : ByteOrder) (wo : WordOrder) (off : Nat)
  /-- DEC.STR (41_decode.md R130); BO and WO ignored. -/
  | decStr (bo : ByteOrder) (wo : WordOrder) (off n : Nat)
  /-- ENC.I16 (42_encode.md R141); BO and WO ignored. -/
  | encI16 (bo : ByteOrder) (wo : WordOrder)
  /-- ENC.U16 (42_encode.md R142); BO and WO ignored. -/
  | encU16 (bo : ByteOrder) (wo : WordOrder)
  /-- ENC.I32 (42_encode.md R143). -/
  | encI32 (bo : ByteOrder) (wo : WordOrder)
  /-- ENC.U32 (42_encode.md R144). -/
  | encU32 (bo : ByteOrder) (wo : WordOrder)
  /-- ENC.I64 (42_encode.md R145). -/
  | encI64 (bo : ByteOrder) (wo : WordOrder)
  /-- ENC.U64 (42_encode.md R146). -/
  | encU64 (bo : ByteOrder) (wo : WordOrder)
  /-- ENC.F32 (42_encode.md R147). -/
  | encF32 (bo : ByteOrder) (wo : WordOrder)
  /-- ENC.F64 (42_encode.md R148). -/
  | encF64 (bo : ByteOrder) (wo : WordOrder)
  /-- ENC.BOOL (42_encode.md R149); BO and WO ignored. -/
  | encBool (bo : ByteOrder) (wo : WordOrder)
  /-- ENC.STR (42_encode.md R150); BO and WO ignored. -/
  | encStr (bo : ByteOrder) (wo : WordOrder) (off n : Nat)
  /-- TOENG (43_scaler.md R165). -/
  | toEng
  /-- TORAW (43_scaler.md R166). -/
  | toRaw
  /-- DECS.I16 (43_scaler.md R167); BO and WO ignored. -/
  | decsI16 (bo : ByteOrder) (wo : WordOrder) (off : Nat)
  /-- DECS.U16 (43_scaler.md R168); BO and WO ignored. -/
  | decsU16 (bo : ByteOrder) (wo : WordOrder) (off : Nat)
  /-- DECS.I32 (43_scaler.md R169). -/
  | decsI32 (bo : ByteOrder) (wo : WordOrder) (off : Nat)
  /-- DECS.U32 (43_scaler.md R170). -/
  | decsU32 (bo : ByteOrder) (wo : WordOrder) (off : Nat)
  /-- DECS.I64 (43_scaler.md R171). -/
  | decsI64 (bo : ByteOrder) (wo : WordOrder) (off : Nat)
  /-- DECS.U64 (43_scaler.md R172). -/
  | decsU64 (bo : ByteOrder) (wo : WordOrder) (off : Nat)
  /-- DECS.F32 (43_scaler.md R173). -/
  | decsF32 (bo : ByteOrder) (wo : WordOrder) (off : Nat)
  /-- DECS.F64 (43_scaler.md R174). -/
  | decsF64 (bo : ByteOrder) (wo : WordOrder) (off : Nat)
  /-- ENCS.I16 (43_scaler.md R175); BO and WO ignored. -/
  | encsI16 (bo : ByteOrder) (wo : WordOrder)
  /-- ENCS.U16 (43_scaler.md R176); BO and WO ignored. -/
  | encsU16 (bo : ByteOrder) (wo : WordOrder)
  /-- ENCS.I32 (43_scaler.md R177). -/
  | encsI32 (bo : ByteOrder) (wo : WordOrder)
  /-- ENCS.U32 (43_scaler.md R178). -/
  | encsU32 (bo : ByteOrder) (wo : WordOrder)
  /-- ENCS.I64 (43_scaler.md R179). -/
  | encsI64 (bo : ByteOrder) (wo : WordOrder)
  /-- ENCS.U64 (43_scaler.md R180). -/
  | encsU64 (bo : ByteOrder) (wo : WordOrder)
  /-- ENCS.F32 (43_scaler.md R181). -/
  | encsF32 (bo : ByteOrder) (wo : WordOrder)
  /-- ENCS.F64 (43_scaler.md R182). -/
  | encsF64 (bo : ByteOrder) (wo : WordOrder)
deriving DecidableEq, Repr

/-- The row of 30_encoding.md R79 an instruction stands for. -/
def Instr.mnemonic : Instr → Mnemonic
  | .nop => .nop
  | .decI16 _ _ _ => .dec .i16
  | .decU16 _ _ _ => .dec .u16
  | .decI32 _ _ _ => .dec .i32
  | .decU32 _ _ _ => .dec .u32
  | .decI64 _ _ _ => .dec .i64
  | .decU64 _ _ _ => .dec .u64
  | .decF32 _ _ _ => .dec .f32
  | .decF64 _ _ _ => .dec .f64
  | .decBool _ _ _ => .dec .bool
  | .decStr _ _ _ _ => .dec .str
  | .encI16 _ _ => .enc .i16
  | .encU16 _ _ => .enc .u16
  | .encI32 _ _ => .enc .i32
  | .encU32 _ _ => .enc .u32
  | .encI64 _ _ => .enc .i64
  | .encU64 _ _ => .enc .u64
  | .encF32 _ _ => .enc .f32
  | .encF64 _ _ => .enc .f64
  | .encBool _ _ => .enc .bool
  | .encStr _ _ _ _ => .enc .str
  | .toEng => .toEng
  | .toRaw => .toRaw
  | .decsI16 _ _ _ => .decs .i16
  | .decsU16 _ _ _ => .decs .u16
  | .decsI32 _ _ _ => .decs .i32
  | .decsU32 _ _ _ => .decs .u32
  | .decsI64 _ _ _ => .decs .i64
  | .decsU64 _ _ _ => .decs .u64
  | .decsF32 _ _ _ => .decs .f32
  | .decsF64 _ _ _ => .decs .f64
  | .encsI16 _ _ => .encs .i16
  | .encsU16 _ _ => .encs .u16
  | .encsI32 _ _ => .encs .i32
  | .encsU32 _ _ => .encs .u32
  | .encsI64 _ _ => .encs .i64
  | .encsU64 _ _ => .encs .u64
  | .encsF32 _ _ => .encs .f32
  | .encsF64 _ _ => .encs .f64

end Sys2Proof
end

