-- ==== Sys2Proof/WellFormed.lean ====
section
/-! DEFINITION. Which instruction terms a command word can hold: OFFSET in 0..255 (30_encoding.md R76) and a string
length in 1..256 (R77). The other fields are closed types. -/

namespace Sys2Proof

/-- `OFFSET` has 8 bits (30_encoding.md R76). -/
def offsetOk (off : Nat) : Bool := decide (off < 256)

/-- `n = SLEN + 1` lies in 1..256 (30_encoding.md R77). -/
def lengthOk (n : Nat) : Bool := decide (1 ≤ n ∧ n ≤ 256)

/-- The check of an instruction's operands against the widths of its fields. -/
def Instr.wf : Instr → Bool
  | .nop => true
  | .decI16 _ _ off => offsetOk off
  | .decU16 _ _ off => offsetOk off
  | .decI32 _ _ off => offsetOk off
  | .decU32 _ _ off => offsetOk off
  | .decI64 _ _ off => offsetOk off
  | .decU64 _ _ off => offsetOk off
  | .decF32 _ _ off => offsetOk off
  | .decF64 _ _ off => offsetOk off
  | .decBool _ _ off => offsetOk off
  | .decStr _ _ off n => offsetOk off && lengthOk n
  | .encI16 _ _ => true
  | .encU16 _ _ => true
  | .encI32 _ _ => true
  | .encU32 _ _ => true
  | .encI64 _ _ => true
  | .encU64 _ _ => true
  | .encF32 _ _ => true
  | .encF64 _ _ => true
  | .encBool _ _ => true
  | .encStr _ _ off n => offsetOk off && lengthOk n
  | .toEng => true
  | .toRaw => true
  | .decsI16 _ _ off => offsetOk off
  | .decsU16 _ _ off => offsetOk off
  | .decsI32 _ _ off => offsetOk off
  | .decsU32 _ _ off => offsetOk off
  | .decsI64 _ _ off => offsetOk off
  | .decsU64 _ _ off => offsetOk off
  | .decsF32 _ _ off => offsetOk off
  | .decsF64 _ _ off => offsetOk off
  | .encsI16 _ _ => true
  | .encsU16 _ _ => true
  | .encsI32 _ _ => true
  | .encsU32 _ _ => true
  | .encsI64 _ _ => true
  | .encsU64 _ _ => true
  | .encsF32 _ _ => true
  | .encsF64 _ _ => true

/-- An instruction some command word encodes. -/
abbrev Instr.WellFormed (i : Instr) : Prop := i.wf = true

end Sys2Proof
end

