-- ==== Sys2Proof/Decode.lean ====
section
/-! DEFINITION. The command word (30_encoding.md): its fields (R71), the decoder (R82), total and rejecting by name,
the encoder and the assembler (R83) written from the same tables, and the opcode rows of R79. -/

namespace Sys2Proof

/-- Why a word is illegal (30_encoding.md R80); each is the ILL of 60_exceptions.md R201. -/
inductive IllegalWord where
  /-- `RSV ≠ 0` (R78). -/
  | reservedBits
  /-- `OP` 0x7 to 0xF (R72). -/
  | reservedOp
  /-- A `KIND` the operation does not have (R73, R80). -/
  | reservedKind
  /-- A must-be-0 field is not 0 (R79). -/
  | nonZeroField
deriving DecidableEq, Repr

/-- Bits `lo + width - 1` down to `lo` of a command word, read as an unsigned number (00_scope.md R8). -/
def wordField (w : Word32) (lo width : Nat) : Nat := (w.extractLsb' lo width).toNat

/-- `BO` codes (30_encoding.md R74). -/
def ByteOrder.ofCode : Nat → ByteOrder
  | 0 => .be
  | _ => .le

/-- The `BO` code of a byte order (30_encoding.md R74). -/
def ByteOrder.code : ByteOrder → Nat
  | .be => 0
  | .le => 1

/-- `WO` codes (30_encoding.md R75). -/
def WordOrder.ofCode : Nat → WordOrder
  | 0 => .abcd
  | 1 => .cdab
  | 2 => .badc
  | _ => .dcba

/-- The `WO` code of a word order (30_encoding.md R75). -/
def WordOrder.code : WordOrder → Nat
  | .abcd => 0
  | .cdab => 1
  | .badc => 2
  | .dcba => 3

/-- `KIND` codes (30_encoding.md R73); 0xA to 0xF name no kind. -/
def Kind.ofCode : Nat → Option Kind
  | 0x0 => some .i16
  | 0x1 => some .u16
  | 0x2 => some .i32
  | 0x3 => some .u32
  | 0x4 => some .i64
  | 0x5 => some .u64
  | 0x6 => some .f32
  | 0x7 => some .f64
  | 0x8 => some .bool
  | 0x9 => some .str
  | _ => none

/-- The DEC command of a kind (30_encoding.md R79). -/
def decOf (bo : ByteOrder) (wo : WordOrder) (off n : Nat) : Kind → Instr
  | .i16 => .decI16 bo wo off
  | .u16 => .decU16 bo wo off
  | .i32 => .decI32 bo wo off
  | .u32 => .decU32 bo wo off
  | .i64 => .decI64 bo wo off
  | .u64 => .decU64 bo wo off
  | .f32 => .decF32 bo wo off
  | .f64 => .decF64 bo wo off
  | .bool => .decBool bo wo off
  | .str => .decStr bo wo off n

/-- The ENC command of a kind (30_encoding.md R79). -/
def encOf (bo : ByteOrder) (wo : WordOrder) (off n : Nat) : Kind → Instr
  | .i16 => .encI16 bo wo
  | .u16 => .encU16 bo wo
  | .i32 => .encI32 bo wo
  | .u32 => .encU32 bo wo
  | .i64 => .encI64 bo wo
  | .u64 => .encU64 bo wo
  | .f32 => .encF32 bo wo
  | .f64 => .encF64 bo wo
  | .bool => .encBool bo wo
  | .str => .encStr bo wo off n

/-- The DECS command of a numeric kind; Bool and FixedString have none (30_encoding.md R80). -/
def decsOf (bo : ByteOrder) (wo : WordOrder) (off : Nat) : Kind → Option Instr
  | .i16 => some (.decsI16 bo wo off)
  | .u16 => some (.decsU16 bo wo off)
  | .i32 => some (.decsI32 bo wo off)
  | .u32 => some (.decsU32 bo wo off)
  | .i64 => some (.decsI64 bo wo off)
  | .u64 => some (.decsU64 bo wo off)
  | .f32 => some (.decsF32 bo wo off)
  | .f64 => some (.decsF64 bo wo off)
  | .bool => none
  | .str => none

/-- The ENCS command of a numeric kind; Bool and FixedString have none (30_encoding.md R80). -/
def encsOf (bo : ByteOrder) (wo : WordOrder) : Kind → Option Instr
  | .i16 => some (.encsI16 bo wo)
  | .u16 => some (.encsU16 bo wo)
  | .i32 => some (.encsI32 bo wo)
  | .u32 => some (.encsU32 bo wo)
  | .i64 => some (.encsI64 bo wo)
  | .u64 => some (.encsU64 bo wo)
  | .f32 => some (.encsF32 bo wo)
  | .f64 => some (.encsF64 bo wo)
  | .bool => none
  | .str => none

/-- `i` if the must-be-0 fields are 0, else the word is illegal (30_encoding.md R79, R80). -/
def requireZero (fieldsAreZero : Bool) (i : Instr) : Except IllegalWord Instr :=
  if fieldsAreZero then .ok i else .error .nonZeroField

/-- OP 0x1 (30_encoding.md R82). -/
def decodeDec (kind slen : Nat) (bo : ByteOrder) (wo : WordOrder) (off : Nat) : Except IllegalWord Instr :=
  match Kind.ofCode kind with
  | none => .error .reservedKind
  | some k =>
    if k = .str then .ok (decOf bo wo off (slen + 1) k)
    else requireZero (slen == 0) (decOf bo wo off (slen + 1) k)

/-- OP 0x2 (30_encoding.md R82). -/
def decodeEnc (kind slen : Nat) (bo : ByteOrder) (wo : WordOrder) (off : Nat) : Except IllegalWord Instr :=
  match Kind.ofCode kind with
  | none => .error .reservedKind
  | some k =>
    if k = .str then .ok (encOf bo wo off (slen + 1) k)
    else requireZero (off == 0 && slen == 0) (encOf bo wo off (slen + 1) k)

/-- OP 0x5 (30_encoding.md R82). -/
def decodeDecs (kind slen : Nat) (bo : ByteOrder) (wo : WordOrder) (off : Nat) : Except IllegalWord Instr :=
  match (Kind.ofCode kind).bind (decsOf bo wo off) with
  | none => .error .reservedKind
  | some i => requireZero (slen == 0) i

/-- OP 0x6 (30_encoding.md R82). -/
def decodeEncs (kind slen : Nat) (bo : ByteOrder) (wo : WordOrder) (off : Nat) : Except IllegalWord Instr :=
  match (Kind.ofCode kind).bind (encsOf bo wo) with
  | none => .error .reservedKind
  | some i => requireZero (off == 0 && slen == 0) i

/-- The decoder of a word written to `CMD` (30_encoding.md R82): total, an illegal word rejected by name. -/
def decode (w : Word32) : Except IllegalWord Instr :=
  let kind := wordField w 4 4
  let bo := ByteOrder.ofCode (wordField w 8 1)
  let wo := WordOrder.ofCode (wordField w 9 2)
  let off := wordField w 16 8
  let slen := wordField w 24 8
  if wordField w 11 5 ≠ 0 then .error .reservedBits
  else
    match wordField w 0 4 with
    | 0x0 => requireZero (wordField w 4 28 == 0) .nop
    | 0x1 => decodeDec kind slen bo wo off
    | 0x2 => decodeEnc kind slen bo wo off
    | 0x3 => requireZero (wordField w 4 28 == 0) .toEng
    | 0x4 => requireZero (wordField w 4 28 == 0) .toRaw
    | 0x5 => decodeDecs kind slen bo wo off
    | 0x6 => decodeEncs kind slen bo wo off
    | _ => .error .reservedOp

/-- The command word with the given fields and `RSV = 0` (30_encoding.md R71, R78). -/
def commandWord (op kind : Nat) (bo : ByteOrder) (wo : WordOrder) (off slen : Nat) : Word32 :=
  BitVec.ofNat 8 slen ++ BitVec.ofNat 8 off ++ 0#5 ++ BitVec.ofNat 2 wo.code ++ BitVec.ofNat 1 bo.code ++
    BitVec.ofNat 4 kind ++ BitVec.ofNat 4 op

/-- The word of an instruction (30_encoding.md R71 to R79). -/
def encode : Instr → Word32
  | .nop => commandWord 0x0 0x0 .be .abcd 0 0
  | .decI16 bo wo off => commandWord 0x1 0x0 bo wo off 0
  | .decU16 bo wo off => commandWord 0x1 0x1 bo wo off 0
  | .decI32 bo wo off => commandWord 0x1 0x2 bo wo off 0
  | .decU32 bo wo off => commandWord 0x1 0x3 bo wo off 0
  | .decI64 bo wo off => commandWord 0x1 0x4 bo wo off 0
  | .decU64 bo wo off => commandWord 0x1 0x5 bo wo off 0
  | .decF32 bo wo off => commandWord 0x1 0x6 bo wo off 0
  | .decF64 bo wo off => commandWord 0x1 0x7 bo wo off 0
  | .decBool bo wo off => commandWord 0x1 0x8 bo wo off 0
  | .decStr bo wo off n => commandWord 0x1 0x9 bo wo off (n - 1)
  | .encI16 bo wo => commandWord 0x2 0x0 bo wo 0 0
  | .encU16 bo wo => commandWord 0x2 0x1 bo wo 0 0
  | .encI32 bo wo => commandWord 0x2 0x2 bo wo 0 0
  | .encU32 bo wo => commandWord 0x2 0x3 bo wo 0 0
  | .encI64 bo wo => commandWord 0x2 0x4 bo wo 0 0
  | .encU64 bo wo => commandWord 0x2 0x5 bo wo 0 0
  | .encF32 bo wo => commandWord 0x2 0x6 bo wo 0 0
  | .encF64 bo wo => commandWord 0x2 0x7 bo wo 0 0
  | .encBool bo wo => commandWord 0x2 0x8 bo wo 0 0
  | .encStr bo wo off n => commandWord 0x2 0x9 bo wo off (n - 1)
  | .toEng => commandWord 0x3 0x0 .be .abcd 0 0
  | .toRaw => commandWord 0x4 0x0 .be .abcd 0 0
  | .decsI16 bo wo off => commandWord 0x5 0x0 bo wo off 0
  | .decsU16 bo wo off => commandWord 0x5 0x1 bo wo off 0
  | .decsI32 bo wo off => commandWord 0x5 0x2 bo wo off 0
  | .decsU32 bo wo off => commandWord 0x5 0x3 bo wo off 0
  | .decsI64 bo wo off => commandWord 0x5 0x4 bo wo off 0
  | .decsU64 bo wo off => commandWord 0x5 0x5 bo wo off 0
  | .decsF32 bo wo off => commandWord 0x5 0x6 bo wo off 0
  | .decsF64 bo wo off => commandWord 0x5 0x7 bo wo off 0
  | .encsI16 bo wo => commandWord 0x6 0x0 bo wo 0 0
  | .encsU16 bo wo => commandWord 0x6 0x1 bo wo 0 0
  | .encsI32 bo wo => commandWord 0x6 0x2 bo wo 0 0
  | .encsU32 bo wo => commandWord 0x6 0x3 bo wo 0 0
  | .encsI64 bo wo => commandWord 0x6 0x4 bo wo 0 0
  | .encsU64 bo wo => commandWord 0x6 0x5 bo wo 0 0
  | .encsF32 bo wo => commandWord 0x6 0x6 bo wo 0 0
  | .encsF64 bo wo => commandWord 0x6 0x7 bo wo 0 0

/-- The instruction the decoder reads from an opcode-table word: one 32-bit word (30_encoding.md R70), the bits from
`nbits` up zero. -/
def decodeTableWord (nbits w : Nat) : Option Instr :=
  match decode (BitVec.ofNat 32 (w % 2 ^ nbits)) with
  | .ok i => some i
  | .error _ => none

/-- One row of the table of 30_encoding.md R79: a word `w` selects the row when `w &&& mask = pattern`. -/
structure OpcodeRow where
  name : Mnemonic
  mask : Word32
  pattern : Word32
deriving DecidableEq, Repr

/-- The row's test (30_encoding.md R79). -/
abbrev OpcodeRow.selects (r : OpcodeRow) (w : Word32) : Prop := w &&& r.mask = r.pattern

/-- The kinds DEC and ENC share that are one, two or four units wide: all but FixedString. -/
def fixedKinds : List (Kind × Word32) :=
  [(.i16, 0x00), (.u16, 0x10), (.i32, 0x20), (.u32, 0x30), (.i64, 0x40), (.u64, 0x50), (.f32, 0x60), (.f64, 0x70),
    (.bool, 0x80)]

/-- The numeric kinds, 0x0 to 0x7 (30_encoding.md R73). -/
def numericKinds : List (Kind × Word32) := fixedKinds.take 8

/-- The opcode table of 30_encoding.md R79, one row per command. -/
def opcodeRows : List OpcodeRow :=
  [⟨.nop, 0xFFFFFFFF, 0x00000000⟩, ⟨.toEng, 0xFFFFFFFF, 0x00000003⟩, ⟨.toRaw, 0xFFFFFFFF, 0x00000004⟩,
    ⟨.dec .str, 0x0000F8FF, 0x00000091⟩, ⟨.enc .str, 0x0000F8FF, 0x00000092⟩] ++
  fixedKinds.map (fun k => ⟨.dec k.1, 0xFF00F8FF, k.2 ||| 0x1⟩) ++
  fixedKinds.map (fun k => ⟨.enc k.1, 0xFFFFF8FF, k.2 ||| 0x2⟩) ++
  numericKinds.map (fun k => ⟨.decs k.1, 0xFF00F8FF, k.2 ||| 0x5⟩) ++
  numericKinds.map (fun k => ⟨.encs k.1, 0xFFFFF8FF, k.2 ||| 0x6⟩)

/-- One assembler line (30_encoding.md R83): a mnemonic and the operands written after it. -/
structure AsmLine where
  name : Mnemonic
  bo : Option ByteOrder := none
  wo : Option WordOrder := none
  off : Option Nat := none
  n : Option Nat := none
deriving DecidableEq, Repr

/-- Which operands the mnemonic's syntax has (30_encoding.md R83): `bo` and `wo`, `off`, `n`. -/
def Mnemonic.operands : Mnemonic → Bool × Bool × Bool
  | .nop => (false, false, false)
  | .toEng => (false, false, false)
  | .toRaw => (false, false, false)
  | .dec k => if k = .str then (false, true, true) else (true, true, false)
  | .enc k => if k = .str then (false, true, true) else (true, false, false)
  | .decs _ => (true, true, false)
  | .encs _ => (true, false, false)

/-- No operand stands on a command that has no such field, and a string length is given where it is needed
(30_encoding.md R83). -/
def AsmLine.operandsOk (l : AsmLine) : Bool :=
  let (orders, off, n) := l.name.operands
  (orders || (l.bo.isNone && l.wo.isNone)) && (off || l.off.isNone) && (n == l.n.isSome)

/-- The instruction a line names, an omitted operand taking its default `BE`, `ABCD`, `off=0` (30_encoding.md R83,
R84). -/
def AsmLine.instr (l : AsmLine) : Option Instr :=
  let bo := l.bo.getD .be
  let wo := l.wo.getD .abcd
  let off := l.off.getD 0
  let n := l.n.getD 1
  match l.name with
  | .nop => some .nop
  | .toEng => some .toEng
  | .toRaw => some .toRaw
  | .dec k => some (decOf bo wo off n k)
  | .enc k => some (encOf bo wo off n k)
  | .decs k => decsOf bo wo off k
  | .encs k => encsOf bo wo k

/-- The assembler (30_encoding.md R83): the word of a line, or none where it rejects an operand. -/
def assembleLine (l : AsmLine) : Option Word32 :=
  if l.operandsOk then l.instr.bind (fun i => if i.wf then some (encode i) else none) else none

end Sys2Proof
end

