-- ==== Sys2Proof/Machine/Ieee.lean ====
section
/-! DEFINITION. IEEE-754 binary32 and binary64 (00_scope.md R12, 40_datapath.md R100 to R105), on exact numbers: every
finite datum of a format is an integer multiple of the format's smallest subnormal, its "ulp zero", so its magnitude is
a natural number of those. Each operation is exact on integers and rounds once, at the end. -/

namespace Sys2Proof.Machine

open Sys2Proof.Config

/-- An IEEE-754 binary interchange format: the widths of its exponent and fraction fields. -/
structure Format where
  expBits : Nat
  fracBits : Nat
deriving DecidableEq, Repr

/-- binary32 (00_scope.md R12). -/
def binary32 : Format := ⟨8, 23⟩

/-- binary64 (00_scope.md R12). -/
def binary64 : Format := ⟨11, 52⟩

/-- A datum: a NaN, an infinity, or a finite number of sign `neg` and magnitude `mag` smallest subnormals (both
zeros have magnitude 0). -/
inductive Datum where
  | nan
  | inf (neg : Bool)
  | fin (neg : Bool) (mag : Nat)
deriving DecidableEq, Repr

/-- The weight of the sign bit. -/
def Format.signWeight (f : Format) : Nat := 2 ^ (f.expBits + f.fracBits)

/-- The pattern of +infinity: the exponent field all ones, the fraction 0. -/
def Format.infPattern (f : Format) : Nat := (2 ^ f.expBits - 1) * 2 ^ f.fracBits

/-- How many smallest subnormals make 1.0: 2^1074 for binary64, 2^149 for binary32. -/
def Format.one (f : Format) : Nat := 2 ^ (2 ^ (f.expBits - 1) - 2 + f.fracBits)

/-- The datum a pattern encodes (`F64(b)` and `F32(b)` of 00_scope.md R12). -/
def Format.decode (f : Format) (b : Nat) : Datum :=
  let neg := b / f.signWeight % 2 == 1
  let ex := b / 2 ^ f.fracBits % 2 ^ f.expBits
  let fr := b % 2 ^ f.fracBits
  if ex = 2 ^ f.expBits - 1 then (if fr = 0 then .inf neg else .nan)
  else if ex = 0 then .fin neg fr
  else .fin neg ((2 ^ f.fracBits + fr) * 2 ^ (ex - 1))

/-- `n / d` rounded to the nearest natural number, ties to even. -/
def roundDivEven (n d : Nat) : Nat :=
  let q := n / d
  let r := n % d
  if 2 * r < d then q else if d < 2 * r then q + 1 else q + q % 2

/-- The pattern, sign bit clear, of `n / d` smallest subnormals under roundTiesToEven (00_scope.md R12). `sh` is how
far the quotient exceeds the precision; a subnormal has `sh = 0`, a carry out of the rounding moves into the exponent
field by itself, and what reaches the pattern of infinity or more overflows to it. -/
def Format.roundMag (f : Format) (n d : Nat) : Nat :=
  let sh := Nat.log2 (n / d) - f.fracBits
  min (sh * 2 ^ f.fracBits + roundDivEven n (d * 2 ^ sh)) f.infPattern

/-- A pattern with its sign bit. -/
def Format.withSign (f : Format) (neg : Bool) (mag : Nat) : Nat := (if neg then f.signWeight else 0) + mag

/-- A NaN pattern of the format made of free bits: the sign and the fraction of `raw`, a zero fraction read as 1. Every
NaN pattern is its own image. -/
def Format.nanOf (f : Format) (raw : Nat) : Nat :=
  let fr := raw % 2 ^ f.fracBits
  f.withSign (raw / f.signWeight % 2 == 1) (f.infPattern + (if fr = 0 then 1 else fr))

/-- The value of a finite magnitude and sign, in smallest subnormals. -/
def signed (neg : Bool) (mag : Nat) : Int := if neg then -(mag : Int) else mag

/-- `F64(b)` (00_scope.md R12). -/
def datum64 (b : BitVec 64) : Datum := binary64.decode b.toNat

/-- `F32(b)` (00_scope.md R12). -/
def datum32 (b : BitVec 32) : Datum := binary32.decode b.toNat

/-- `isNaN(d)` (00_scope.md R12). -/
def isNaN64 (b : BitVec 64) : Bool := datum64 b == .nan

/-- `isNaN` of a binary32 pattern (00_scope.md R12). -/
def isNaN32 (b : BitVec 32) : Bool := datum32 b == .nan

/-- The n-th `drawNaN64()`: a NaN pattern the model leaves free (00_scope.md R13, notes/assumptions/1.md). -/
def drawNaN64 (n : Nat) : BitVec 64 := BitVec.ofNat 64 (binary64.nanOf (freeBits64 n).toNat)

/-- The n-th `drawNaN32()`: a NaN pattern the model leaves free (00_scope.md R13, notes/assumptions/1.md). -/
def drawNaN32 (n : Nat) : BitVec 32 := BitVec.ofNat 32 (binary32.nanOf (freeBits32 n).toNat)

/-- An infinity of binary64. -/
def inf64 (neg : Bool) : BitVec 64 := BitVec.ofNat 64 (binary64.withSign neg binary64.infPattern)

/-- The exact magnitude `n / d` (in smallest subnormals) with a sign, rounded once to binary64 (00_scope.md R12). -/
def round64 (neg : Bool) (n d : Nat) : BitVec 64 := BitVec.ofNat 64 (binary64.withSign neg (binary64.roundMag n d))

/-- `a +64 b` (40_datapath.md R100); `nan` is the draw a NaN result takes. An exact zero sum is +0 unless both
operands are negative (notes/assumptions/11.md). -/
def add64 (nan a b : BitVec 64) : BitVec 64 :=
  match datum64 a, datum64 b with
  | .nan, _ => nan
  | _, .nan => nan
  | .inf s, .inf t => if s = t then inf64 s else nan
  | .inf s, .fin _ _ => inf64 s
  | .fin _ _, .inf t => inf64 t
  | .fin s m, .fin t k =>
    let z := signed s m + signed t k
    if z = 0 then round64 (s && t) 0 1 else round64 (decide (z < 0)) z.natAbs 1

/-- The pattern with its sign bit inverted. -/
def neg64 (b : BitVec 64) : BitVec 64 := b ^^^ 0x8000000000000000#64

/-- `a −64 b` (40_datapath.md R100): IEEE-754 subtraction is addition of the negated operand. -/
def sub64 (nan a b : BitVec 64) : BitVec 64 := add64 nan a (neg64 b)

/-- `a ×64 b` (40_datapath.md R100): `0 × ∞` is a NaN, every other result has the exclusive or of the signs. -/
def mul64 (nan a b : BitVec 64) : BitVec 64 :=
  match datum64 a, datum64 b with
  | .nan, _ => nan
  | _, .nan => nan
  | .inf s, .inf t => inf64 (s ^^ t)
  | .inf s, .fin t k => if k = 0 then nan else inf64 (s ^^ t)
  | .fin s m, .inf t => if m = 0 then nan else inf64 (s ^^ t)
  | .fin s m, .fin t k => round64 (s ^^ t) (m * k) binary64.one

/-- `a ÷64 b` (40_datapath.md R100): `0 ÷ 0` and `∞ ÷ ∞` are NaNs, a finite non-zero value divided by 0 is a signed
infinity, every other result has the exclusive or of the signs. -/
def div64 (nan a b : BitVec 64) : BitVec 64 :=
  match datum64 a, datum64 b with
  | .nan, _ => nan
  | _, .nan => nan
  | .inf _, .inf _ => nan
  | .inf s, .fin t _ => inf64 (s ^^ t)
  | .fin s _, .inf t => round64 (s ^^ t) 0 1
  | .fin s m, .fin t k =>
    if k = 0 then (if m = 0 then nan else inf64 (s ^^ t)) else round64 (s ^^ t) (m * binary64.one) k

/-- `a ==64 b`, the quiet comparison (00_scope.md R12): +0 equals −0, a NaN equals nothing. -/
def eq64 (a b : BitVec 64) : Bool :=
  match datum64 a, datum64 b with
  | .inf s, .inf t => s == t
  | .fin s m, .fin t k => signed s m == signed t k
  | _, _ => false

/-- `a <64 b`, the quiet comparison (00_scope.md R12): false with a NaN. -/
def lt64 (a b : BitVec 64) : Bool :=
  match datum64 a, datum64 b with
  | .inf s, .inf t => s && !t
  | .inf s, .fin _ _ => s
  | .fin _ _, .inf t => !t
  | .fin s m, .fin t k => decide (signed s m < signed t k)
  | _, _ => false

/-- `bits64(RNE64(x))` for an integer (40_datapath.md R103). -/
def rne64 (x : Int) : BitVec 64 := round64 (decide (x < 0)) (x.natAbs * binary64.one) 1

/-- `bits64(cvt32to64(b))` (40_datapath.md R101): exact; a NaN is drawn. -/
def cvt32to64 (nan : BitVec 64) (b : BitVec 32) : BitVec 64 :=
  match datum32 b with
  | .nan => nan
  | .inf s => inf64 s
  | .fin s m => round64 s (m * binary64.one) binary32.one

/-- `bits32(cvt64to32(d))` (40_datapath.md R102): one rounding, overflow to infinity, no clamp; a NaN is drawn. -/
def cvt64to32 (nan : BitVec 32) (b : BitVec 64) : BitVec 32 :=
  match datum64 b with
  | .nan => nan
  | .inf s => BitVec.ofNat 32 (binary32.withSign s binary32.infPattern)
  | .fin s m => BitVec.ofNat 32 (binary32.withSign s (binary32.roundMag (m * binary32.one) binary64.one))

/-- `roundInt` of the exact quotient `x / u` (40_datapath.md R104): the nearest integer, ties by `P_ROUND`. -/
def roundInt (mode : RoundMode) (x : Int) (u : Nat) : Int :=
  let q := x / u
  let r := x % u
  if 2 * r < u then q
  else if u < 2 * r then q + 1
  else
    match mode with
    | .tiesEven => if q % 2 = 0 then q else q + 1
    | .tiesAway => if 0 ≤ x then q + 1 else q
    | .tiesUp => q + 1

/-- `clampRoundInt(d, lo, hi)` (40_datapath.md R105): the comparisons are exact, on real values. -/
def clampRoundInt (mode : RoundMode) (d : BitVec 64) (lo hi : Int) : Int × Bool :=
  match datum64 d with
  | .nan => (0, true)
  | .inf neg => (if neg then lo else hi, true)
  | .fin neg mag =>
    let x := signed neg mag
    if x < lo * binary64.one then (lo, true)
    else if hi * binary64.one < x then (hi, true)
    else (roundInt mode x binary64.one, false)

end Sys2Proof.Machine
end

