-- ==== Sys2Proof/Machine/Operands.lean ====
section
/-! DEFINITION. Where a command's operands come from: the fields of the registers (10_state.md R22 to R28), unit fetch
(40_datapath.md R90), the kind table (R91), and the byte and word orders (R92 to R98). -/

namespace Sys2Proof.Machine

open Sys2Proof.Config

/-- `CTRL.RESPECT_TAG_CLAMP` (10_state.md R23). -/
def State.respectTagClamp (s : State) : Bool := s.ctrl.getLsbD 0

/-- `CTRL.GLOBAL_CLAMP` (10_state.md R24). -/
def State.globalClamp (s : State) : Bool := s.ctrl.getLsbD 1

/-- `CTRL.INT64_MODE` = INTEGER (10_state.md R25). -/
def State.int64Mode (s : State) : Bool := s.ctrl.getLsbD 2

/-- `SCFG.TAG_CLAMP` (10_state.md R28). -/
def State.tagClamp (s : State) : Bool := s.scfg.getLsbD 0

/-- The units a kind occupies (30_encoding.md R73, 40_datapath.md R91); `n` is the length of a FixedString. -/
def unitsOf (n : Nat) : Kind → Nat
  | .i16 => 1
  | .u16 => 1
  | .i32 => 2
  | .u32 => 2
  | .i64 => 4
  | .u64 => 4
  | .f32 => 2
  | .f64 => 4
  | .bool => 1
  | .str => n

/-- The least value of an integer kind (40_datapath.md R91). -/
def loOf : Kind → Int
  | .i16 => -32768
  | .i32 => -2 ^ 31
  | .i64 => -2 ^ 63
  | _ => 0

/-- The greatest value of an integer kind (40_datapath.md R91); 0 where the table has none. -/
def hiOf : Kind → Int
  | .i16 => 32767
  | .u16 => 65535
  | .i32 => 2 ^ 31 - 1
  | .u32 => 2 ^ 32 - 1
  | .i64 => 2 ^ 63 - 1
  | .u64 => 2 ^ 64 - 1
  | _ => 0

/-- `U(i)` misses: the unit lies at or past `RAW_LEN` (40_datapath.md R90). -/
def unitMissing (s : State) (i : Nat) : Bool := decide (s.rawLen.toNat ≤ i)

/-- The value of `U(i)` (40_datapath.md R90): a missing unit reads 0. -/
def unitAt (s : State) (i : Nat) : BitVec 16 := if unitMissing s i then 0 else s.unit[i]?.getD 0

/-- The units of `fetch(o, k)` (40_datapath.md R90). -/
def fetchUnits (s : State) (o k : Nat) : List (BitVec 16) := (List.range k).map (fun j => unitAt s (o + j))

/-- The `short` flag of `fetch(o, k)` (40_datapath.md R90). -/
def fetchShort (s : State) (o k : Nat) : Bool := (List.range k).any (fun j => unitMissing s (o + j))

/-- `bswap16` (00_scope.md R9). -/
def bswap16 (u : BitVec 16) : BitVec 16 := u.extractLsb' 0 8 ++ u.extractLsb' 8 8

/-- `bswap` of an `n`-byte number: the order of its bytes reversed (00_scope.md R9). -/
def bswapBytes : Nat → Nat → Nat
  | 0, _ => 0
  | n + 1, w => w % 256 * 256 ^ n + bswapBytes n (w / 256)

/-- Concatenation of units, the first most significant (00_scope.md R8). -/
def joinUnits (us : List (BitVec 16)) : Nat := us.foldl (fun w u => w * 65536 + u.toNat) 0

/-- The `k` units of a `16k`-bit number, the most significant first. -/
def splitUnits : Nat → Nat → List (BitVec 16)
  | 0, _ => []
  | k + 1, w => splitUnits k (w / 65536) ++ [BitVec.ofNat 16 w]

/-- `lsw(wo)` (40_datapath.md R92). -/
def swapsBytes (p : Params) (wo : WordOrder) : Bool := p.letterBswap && (wo == .badc || wo == .dcba)

/-- `wrev(wo)` (40_datapath.md R93). -/
def reversesUnits (wo : WordOrder) : Bool := wo == .cdab || wo == .dcba

/-- `revW` (40_datapath.md R93) on two or four units, the only lengths a multi-unit kind has. -/
def revW (p : Params) : List (BitVec 16) → List (BitVec 16)
  | [a, b] => [b, a]
  | [a, b, c, d] =>
    match p.wo64 with
    | .reverse4 => [d, c, b, a]
    | .pairSwap => [b, a, d, c]
  | us => us

/-- The byte swap inside each unit, where the word order has one (40_datapath.md R92). -/
def swapStep (p : Params) (wo : WordOrder) (us : List (BitVec 16)) : List (BitVec 16) :=
  if swapsBytes p wo then us.map bswap16 else us

/-- The unit reversal of the word order (40_datapath.md R93). -/
def reverseStep (p : Params) (wo : WordOrder) (us : List (BitVec 16)) : List (BitVec 16) :=
  if reversesUnits wo then revW p us else us

/-- `assemble(s, wo, bo, k)` (40_datapath.md R94), k being the number of units given. -/
def assemble (p : Params) (wo : WordOrder) (bo : ByteOrder) (us : List (BitVec 16)) : Nat :=
  let s2 := reverseStep p wo (swapStep p wo us)
  match p.leReading, bo with
  | _, .be => joinUnits s2
  | .unitSwap, .le => joinUnits s2.reverse
  | .byteReverse, .le => bswapBytes (2 * us.length) (joinUnits s2)

/-- `disassemble(w, wo, bo, k)` (40_datapath.md R95). -/
def disassemble (p : Params) (wo : WordOrder) (bo : ByteOrder) (k w : Nat) : List (BitVec 16) :=
  let s2 :=
    match p.leReading, bo with
    | _, .be => splitUnits k w
    | .unitSwap, .le => (splitUnits k w).reverse
    | .byteReverse, .le => splitUnits k (bswapBytes (2 * k) w)
  swapStep p wo (reverseStep p wo s2)

end Sys2Proof.Machine
end

