-- ==== Sys2Proof/Machine/Ops.lean ====
section
/-! DEFINITION. The named operations on registers: the window's register map with its reads and writes (20_memory.md
R51 to R55), the results of commands (10_state.md R32, 40_datapath.md R106), the legacy 64-bit path (R108), the two
abnormal conditions ILL and BUSERR (60_exceptions.md R201, R202), and reset (70_reset_and_hazards.md R220, R221). -/

namespace Sys2Proof.Machine

open Sys2Proof.Config

/-- A half of a 64-bit register (20_memory.md R55). -/
inductive Half where
  | low
  | high
deriving DecidableEq, Repr

/-- What stands at a 32-bit slot of the window (20_memory.md R51). -/
inductive Reg where
  | id
  | ctrl
  | status
  | cmd
  | scfg
  | rawLen
  | outLen
  | resType
  | rawLo (h : Half)
  | rawHi (h : Half)
  | engLo (h : Half)
  | engHi (h : Half)
  | val (h : Half)
  | res (h : Half)
  | unit (i : Nat)
  | out (i : Nat)
  | reserved
deriving DecidableEq, Repr

/-- The register map (20_memory.md R51). -/
def regAt (off : Nat) : Reg :=
  match off with
  | 0x000 => .id
  | 0x004 => .ctrl
  | 0x008 => .status
  | 0x00C => .cmd
  | 0x010 => .scfg
  | 0x014 => .rawLen
  | 0x018 => .outLen
  | 0x01C => .resType
  | 0x020 => .rawLo .low
  | 0x024 => .rawLo .high
  | 0x028 => .rawHi .low
  | 0x02C => .rawHi .high
  | 0x030 => .engLo .low
  | 0x034 => .engLo .high
  | 0x038 => .engHi .low
  | 0x03C => .engHi .high
  | 0x040 => .val .low
  | 0x044 => .val .high
  | 0x048 => .res .low
  | 0x04C => .res .high
  | off =>
    if 0x400 ≤ off ∧ off < 0x800 then .unit ((off - 0x400) / 4)
    else if 0x800 ≤ off ∧ off < 0xC00 then .out ((off - 0x800) / 4)
    else .reserved

/-- The value of `ID` (10_state.md R21). -/
def idValue : BitVec 32 := 0x52574331#32

/-- The code of a result type (10_state.md R31). -/
def ResType.code : ResType → BitVec 3
  | .none => 0
  | .int => 1
  | .uint => 2
  | .f64 => 3
  | .bool => 4
  | .str => 5

/-- One half of a 64-bit register (20_memory.md R55). -/
def getHalf (h : Half) (v : BitVec 64) : BitVec 32 :=
  match h with
  | .low => v.extractLsb' 0 32
  | .high => v.extractLsb' 32 32

/-- A 64-bit register with one half replaced, the other kept (20_memory.md R55). -/
def setHalf (h : Half) (v : BitVec 64) (d : BitVec 32) : BitVec 64 :=
  match h with
  | .low => v.extractLsb' 32 32 ++ d
  | .high => d ++ v.extractLsb' 0 32

/-- What a 32-bit read of a register returns (10_state.md R21 to R36); undefined bits and reserved slots read as zero
(20_memory.md R53). -/
def readReg (r : Reg) (s : State) : BitVec 32 :=
  match r with
  | .id => idValue
  | .ctrl => s.ctrl.setWidth 32
  | .status => s.status.setWidth 32
  | .cmd => s.cmd
  | .scfg => s.scfg.setWidth 32
  | .rawLen => s.rawLen.setWidth 32
  | .outLen => s.outLen.setWidth 32
  | .resType => s.resType.code.setWidth 32
  | .rawLo h => getHalf h s.rawLo
  | .rawHi h => getHalf h s.rawHi
  | .engLo h => getHalf h s.engLo
  | .engHi h => getHalf h s.engHi
  | .val h => getHalf h s.val
  | .res h => getHalf h s.res
  | .unit i => (s.unit[i]?.getD 0).setWidth 32
  | .out i => (s.out[i]?.getD 0).setWidth 32
  | .reserved => 0

/-- What a 32-bit write stores (10_state.md R21 to R36). A write to a read-only register or a reserved slot is ignored
(20_memory.md R53, R54). The command a write to `CMD` executes is not part of this: see `busWrite`. -/
def writeReg (r : Reg) (v : BitVec 32) (s : State) : State :=
  match r with
  | .id => s
  | .ctrl => { s with ctrl := v.setWidth 3 }
  | .status => s
  | .cmd => { s with cmd := v }
  | .scfg => { s with scfg := v.setWidth 1 }
  | .rawLen => { s with rawLen := BitVec.ofNat 9 (min v.toNat 256) }
  | .outLen => s
  | .resType => s
  | .rawLo h => { s with rawLo := setHalf h s.rawLo v }
  | .rawHi h => { s with rawHi := setHalf h s.rawHi v }
  | .engLo h => { s with engLo := setHalf h s.engLo v }
  | .engHi h => { s with engHi := setHalf h s.engHi v }
  | .val h => { s with val := setHalf h s.val v }
  | .res _ => s
  | .unit i => { s with unit := s.unit.setIfInBounds i (v.setWidth 16) }
  | .out _ => s
  | .reserved => s

/-- A unit array with the units `us` written from index `i` on. -/
def writeUnits (out : Vector (BitVec 16) 256) (i : Nat) : List (BitVec 16) → Vector (BitVec 16) 256
  | [] => out
  | u :: us => writeUnits (out.setIfInBounds i u) (i + 1) us

/-- `putUnits(s)` (40_datapath.md R106): `OUT[0..k-1]` and `OUT_LEN`, the rest of `OUT[]` unchanged. -/
def State.putUnits (s : State) (us : List (BitVec 16)) : State :=
  { s with out := writeUnits s.out 0 us, outLen := BitVec.ofNat 9 us.length }

/-- `RES <- v; RES_TYPE <- t` (10_state.md R31, R32). -/
def State.setRes (s : State) (v : BitVec 64) (t : ResType) : State := { s with res := v, resType := t }

/-- One free NaN draw taken: the next command draws with the next number (00_scope.md R13, notes/assumptions/1.md). -/
def State.drawn (s : State) : State := { s with draws := s.draws + 1 }

/-- The draw a command's binary64 NaN result takes (00_scope.md R13). -/
def State.nan64 (s : State) : BitVec 64 := drawNaN64 s.draws

/-- The draw a command's binary32 NaN result takes (00_scope.md R13). -/
def State.nan32 (s : State) : BitVec 32 := drawNaN32 s.draws

/-- What a decode computes: the `RES`, `RES_TYPE` and SHORT of 41_decode.md, not written (43_scaler.md R167). -/
structure Decoded where
  res : BitVec 64
  type : ResType
  short : Bool
deriving DecidableEq, Repr

/-- What an encode computes: the units for `OUT[]` and SAT (42_encode.md, 43_scaler.md R175). -/
structure Encoded where
  units : List (BitVec 16)
  sat : Bool
deriving DecidableEq, Repr

/-- The writes of a DEC of a numeric kind or Bool (41_decode.md R120). -/
def State.putDecoded (s : State) (d : Decoded) : State := (s.setRes d.res d.type).setStatus d.short false false

/-- The writes of an ENC or ENCS of a numeric kind or Bool (42_encode.md R140, 43_scaler.md R175). -/
def State.putEncoded (s : State) (e : Encoded) (degen : Bool) : State :=
  (s.putUnits e.units).setStatus false degen e.sat

/-- `legacyDecode(w, kind)` (40_datapath.md R108). -/
def legacyDecode (p : Params) (k : Kind) (w : BitVec 64) : BitVec 64 :=
  match p.legacy64 with
  | .reinterpret => w
  | .arith => rne64 (if k = .i64 then w.toInt else w.toNat)

/-- `legacyEncode(d, kind)` (40_datapath.md R108). -/
def legacyEncode (p : Params) (k : Kind) (d : BitVec 64) : BitVec 64 × Bool :=
  let c := clampRoundInt p.round d (loOf k) (hiOf k)
  match p.legacy64 with
  | .reinterpret => (rne64 c.1, c.2)
  | .arith => (BitVec.ofInt 64 c.1, c.2)

/-- ILL (60_exceptions.md R201): `STATUS` becomes 0x1 and nothing else changes. -/
def raiseIll (s : State) : State := { s with status := 0x1#4 }

/-- The bus response is `r`; no register changes. -/
def State.respond (s : State) (r : Response) : State := { s with response := r }

/-- BUSERR (60_exceptions.md R202): an error response and no register change. Where the host bus cannot carry an
error, a read returns 0x00000000 and a write looks accepted (notes/assumptions/6.md). -/
def raiseBusErr (isRead : Bool) (s : State) : State :=
  s.respond (if s.cfg.busErrorSignalled then .busErr else if isRead then .data 0 else .done)

/-- Every register at its reset value (70_reset_and_hazards.md R221); the parameters, the host's events, the bus
response and the draw counter are no registers and stay. -/
def State.resetRegisters (s : State) : State :=
  { State.reset with
    inReset := s.inReset, pending := s.pending, response := s.response, draws := s.draws, cfg := s.cfg }

/-- The reset line takes a level (70_reset_and_hazards.md R220): while it is asserted the instance is in reset; when it
is released every register holds its reset value; a level it already has changes nothing. -/
def setResetLine (asserted : Bool) (s : State) : State :=
  if asserted then { s with inReset := true }
  else if s.inReset then { s.resetRegisters with inReset := false }
  else s

end Sys2Proof.Machine
end

