-- ==== Sys2Proof/Machine/Control.lean ====
section
/-! DEFINITION. The control command (44_control.md). -/

namespace Sys2Proof.Machine

/-- NOP (44_control.md R190): `STATUS <- 0`. -/
def execNop (s : State) : Host.Outcome State Fault Refusal :=
  .next (s.setStatus false false false)

end Sys2Proof.Machine
end

