-- ==== Sys2Proof/Machine/Dec.lean ====
section
/-! DEFINITION. The decode commands DEC.* (41_decode.md R120 to R130). For a numeric kind, `decoded<Kind>` is what the
decode computes and `execDec<Kind>` writes it; DECS uses the same `decoded<Kind>` (43_scaler.md R167). -/

namespace Sys2Proof.Machine

open Sys2Proof.Config

/-- The 32-bit word two units at offset `off` assemble to (40_datapath.md R94). -/
def assembled32 (s : State) (bo : ByteOrder) (wo : WordOrder) (off : Nat) : BitVec 32 :=
  BitVec.ofNat 32 (assemble s.cfg wo bo (fetchUnits s off 2))

/-- The 64-bit word four units at offset `off` assemble to (40_datapath.md R94). -/
def assembled64 (s : State) (bo : ByteOrder) (wo : WordOrder) (off : Nat) : BitVec 64 :=
  BitVec.ofNat 64 (assemble s.cfg wo bo (fetchUnits s off 4))

/-- What DEC.I16 computes (41_decode.md R121). -/
def decodedI16 (off : Nat) (s : State) : Decoded := ⟨(unitAt s off).signExtend 64, .int, fetchShort s off 1⟩

/-- What DEC.U16 computes (41_decode.md R122). -/
def decodedU16 (off : Nat) (s : State) : Decoded := ⟨(unitAt s off).setWidth 64, .uint, fetchShort s off 1⟩

/-- What DEC.I32 computes (41_decode.md R123). -/
def decodedI32 (bo : ByteOrder) (wo : WordOrder) (off : Nat) (s : State) : Decoded :=
  ⟨(assembled32 s bo wo off).signExtend 64, .int, fetchShort s off 2⟩

/-- What DEC.U32 computes (41_decode.md R124). -/
def decodedU32 (bo : ByteOrder) (wo : WordOrder) (off : Nat) (s : State) : Decoded :=
  ⟨(assembled32 s bo wo off).setWidth 64, .uint, fetchShort s off 2⟩

/-- What DEC.I64 computes (41_decode.md R125): exact in INTEGER mode, else the legacy path. -/
def decodedI64 (bo : ByteOrder) (wo : WordOrder) (off : Nat) (s : State) : Decoded :=
  if s.int64Mode then ⟨assembled64 s bo wo off, .int, fetchShort s off 4⟩
  else ⟨legacyDecode s.cfg .i64 (assembled64 s bo wo off), .f64, fetchShort s off 4⟩

/-- What DEC.U64 computes (41_decode.md R126): exact in INTEGER mode, else the legacy path. -/
def decodedU64 (bo : ByteOrder) (wo : WordOrder) (off : Nat) (s : State) : Decoded :=
  if s.int64Mode then ⟨assembled64 s bo wo off, .uint, fetchShort s off 4⟩
  else ⟨legacyDecode s.cfg .u64 (assembled64 s bo wo off), .f64, fetchShort s off 4⟩

/-- What DEC.F32 computes (41_decode.md R127); a binary32 NaN is drawn (93_implementation_defined.md I1). -/
def decodedF32 (bo : ByteOrder) (wo : WordOrder) (off : Nat) (s : State) : Decoded :=
  ⟨cvt32to64 s.nan64 (assembled32 s bo wo off), .f64, fetchShort s off 2⟩

/-- What DEC.F64 computes (41_decode.md R128). -/
def decodedF64 (bo : ByteOrder) (wo : WordOrder) (off : Nat) (s : State) : Decoded :=
  ⟨assembled64 s bo wo off, .f64, fetchShort s off 4⟩

/-- DEC.I16 (41_decode.md R121). -/
def execDecI16 (_bo : ByteOrder) (_wo : WordOrder) (off : Nat) (s : State) :
    Host.Outcome State Fault Refusal :=
  .next (s.putDecoded (decodedI16 off s))

/-- DEC.U16 (41_decode.md R122). -/
def execDecU16 (_bo : ByteOrder) (_wo : WordOrder) (off : Nat) (s : State) :
    Host.Outcome State Fault Refusal :=
  .next (s.putDecoded (decodedU16 off s))

/-- DEC.I32 (41_decode.md R123). -/
def execDecI32 (bo : ByteOrder) (wo : WordOrder) (off : Nat) (s : State) :
    Host.Outcome State Fault Refusal :=
  .next (s.putDecoded (decodedI32 bo wo off s))

/-- DEC.U32 (41_decode.md R124). -/
def execDecU32 (bo : ByteOrder) (wo : WordOrder) (off : Nat) (s : State) :
    Host.Outcome State Fault Refusal :=
  .next (s.putDecoded (decodedU32 bo wo off s))

/-- DEC.I64 (41_decode.md R125). -/
def execDecI64 (bo : ByteOrder) (wo : WordOrder) (off : Nat) (s : State) :
    Host.Outcome State Fault Refusal :=
  .next (s.putDecoded (decodedI64 bo wo off s))

/-- DEC.U64 (41_decode.md R126). -/
def execDecU64 (bo : ByteOrder) (wo : WordOrder) (off : Nat) (s : State) :
    Host.Outcome State Fault Refusal :=
  .next (s.putDecoded (decodedU64 bo wo off s))

/-- DEC.F32 (41_decode.md R127). -/
def execDecF32 (bo : ByteOrder) (wo : WordOrder) (off : Nat) (s : State) :
    Host.Outcome State Fault Refusal :=
  .next ((s.putDecoded (decodedF32 bo wo off s)).drawn)

/-- DEC.F64 (41_decode.md R128). -/
def execDecF64 (bo : ByteOrder) (wo : WordOrder) (off : Nat) (s : State) :
    Host.Outcome State Fault Refusal :=
  .next (s.putDecoded (decodedF64 bo wo off s))

/-- DEC.BOOL (41_decode.md R129): always unit 0; OFFSET, BO and WO have no effect (70_reset_and_hazards.md R230). -/
def execDecBool (_bo : ByteOrder) (_wo : WordOrder) (_off : Nat) (s : State) :
    Host.Outcome State Fault Refusal :=
  .next (s.putDecoded ⟨if unitAt s 0 = 0 then 0 else 1, .bool, unitMissing s 0⟩)

/-- DEC.STR (41_decode.md R130): the character codes go to `OUT[]` unchanged. -/
def execDecStr (_bo : ByteOrder) (_wo : WordOrder) (off n : Nat) (s : State) :
    Host.Outcome State Fault Refusal :=
  .next (((s.putUnits (fetchUnits s off n)).setRes (BitVec.ofNat 64 n) .str).setStatus (fetchShort s off n) false false)

end Sys2Proof.Machine
end

