-- ==== Sys2Proof/Machine/Scaler.lean ====
section
/-! DEFINITION. The linear scaler (43_scaler.md R160 to R164) and its two commands TOENG and TORAW (R165, R166). -/

namespace Sys2Proof.Machine

open Sys2Proof.Config

/-- `clampOn()` (43_scaler.md R160). -/
def clampOn (s : State) : Bool :=
  match s.cfg.clampRule with
  | .precedence => if s.respectTagClamp then s.tagClamp else s.globalClamp
  | .disjunction => (s.respectTagClamp && s.tagClamp) || s.globalClamp

/-- `clampEng(e, a, b)` (43_scaler.md R161), on binary64 patterns. -/
def clampEng (e a b : BitVec 64) : BitVec 64 × Bool :=
  let lo := if lt64 b a then b else a
  let hi := if lt64 b a then a else b
  if lt64 e lo then (lo, true)
  else if lt64 hi e then (hi, true)
  else (e, false)

/-- What a scaler direction computes: the binary64 result, DEGEN and SAT (43_scaler.md R162, R163). -/
structure Scaled where
  value : BitVec 64
  degen : Bool
  sat : Bool
deriving DecidableEq, Repr

/-- The transform of `toEng` before the clamp (43_scaler.md R162), each operation rounding once. -/
def engTransform (s : State) (x : BitVec 64) : BitVec 64 :=
  add64 s.nan64 s.engLo
    (mul64 s.nan64 (div64 s.nan64 (sub64 s.nan64 x s.rawLo) (sub64 s.nan64 s.rawHi s.rawLo))
      (sub64 s.nan64 s.engHi s.engLo))

/-- `toEng(x)` (43_scaler.md R162). -/
def toEng (s : State) (x : BitVec 64) : Scaled :=
  let degen := eq64 s.rawHi s.rawLo
  let t := if degen then s.engLo else engTransform s x
  if clampOn s then ⟨(clampEng t s.engLo s.engHi).1, degen, (clampEng t s.engLo s.engHi).2⟩ else ⟨t, degen, false⟩

/-- The transform of `toRaw` (43_scaler.md R163), each operation rounding once. -/
def rawTransform (s : State) (y : BitVec 64) : BitVec 64 :=
  add64 s.nan64 s.rawLo
    (mul64 s.nan64 (div64 s.nan64 (sub64 s.nan64 y s.engLo) (sub64 s.nan64 s.engHi s.engLo))
      (sub64 s.nan64 s.rawHi s.rawLo))

/-- `toRaw(y)` (43_scaler.md R163): never clamped. On equal engineering bounds it gives the bits of `RAW_LO` themselves,
a NaN's too, and draws nothing (DESIGN CHOICE beside R182: notes/assumptions/19.md). -/
def toRaw (s : State) (y : BitVec 64) : Scaled :=
  let degen := eq64 s.engHi s.engLo
  ⟨if degen then s.rawLo else rawTransform s y, degen, false⟩

/-- `toF64(res, type)` (43_scaler.md R164). A decode of a numeric kind has one of the first three types. -/
def toF64 (res : BitVec 64) : ResType → BitVec 64
  | .int => rne64 res.toInt
  | .uint => rne64 res.toNat
  | .f64 => res
  | .none => res
  | .bool => res
  | .str => res

/-- The writes of a command that leaves a scaled value in `RES` (43_scaler.md R165 to R167); a NaN it holds was drawn,
so the draw is taken. -/
def State.putScaled (s : State) (short : Bool) (e : Scaled) : State :=
  ((s.setRes e.value .f64).setStatus short e.degen e.sat).drawn

/-- TOENG (43_scaler.md R165). -/
def execToEng (s : State) : Host.Outcome State Fault Refusal :=
  .next (s.putScaled false (toEng s s.val))

/-- TORAW (43_scaler.md R166). -/
def execToRaw (s : State) : Host.Outcome State Fault Refusal :=
  .next (s.putScaled false (toRaw s s.val))

end Sys2Proof.Machine
end

