-- ==== Sys2Proof/Machine/Decs.lean ====
section
/-! DEFINITION. The fused decode-and-scale commands DECS.* (43_scaler.md R167 to R174): the decode's value, not
written, through `toF64` and `toEng`. -/

namespace Sys2Proof.Machine

/-- The writes of a DECS command (43_scaler.md R167). -/
def State.putDecodedScaled (s : State) (d : Decoded) : State := s.putScaled d.short (toEng s (toF64 d.res d.type))

/-- DECS.I16 (43_scaler.md R167). -/
def execDecsI16 (_bo : ByteOrder) (_wo : WordOrder) (off : Nat) (s : State) :
    Host.Outcome State Fault Refusal :=
  .next (s.putDecodedScaled (decodedI16 off s))

/-- DECS.U16 (43_scaler.md R168). -/
def execDecsU16 (_bo : ByteOrder) (_wo : WordOrder) (off : Nat) (s : State) :
    Host.Outcome State Fault Refusal :=
  .next (s.putDecodedScaled (decodedU16 off s))

/-- DECS.I32 (43_scaler.md R169). -/
def execDecsI32 (bo : ByteOrder) (wo : WordOrder) (off : Nat) (s : State) :
    Host.Outcome State Fault Refusal :=
  .next (s.putDecodedScaled (decodedI32 bo wo off s))

/-- DECS.U32 (43_scaler.md R170). -/
def execDecsU32 (bo : ByteOrder) (wo : WordOrder) (off : Nat) (s : State) :
    Host.Outcome State Fault Refusal :=
  .next (s.putDecodedScaled (decodedU32 bo wo off s))

/-- DECS.I64 (43_scaler.md R171). -/
def execDecsI64 (bo : ByteOrder) (wo : WordOrder) (off : Nat) (s : State) :
    Host.Outcome State Fault Refusal :=
  .next (s.putDecodedScaled (decodedI64 bo wo off s))

/-- DECS.U64 (43_scaler.md R172). -/
def execDecsU64 (bo : ByteOrder) (wo : WordOrder) (off : Nat) (s : State) :
    Host.Outcome State Fault Refusal :=
  .next (s.putDecodedScaled (decodedU64 bo wo off s))

/-- DECS.F32 (43_scaler.md R173). -/
def execDecsF32 (bo : ByteOrder) (wo : WordOrder) (off : Nat) (s : State) :
    Host.Outcome State Fault Refusal :=
  .next (s.putDecodedScaled (decodedF32 bo wo off s))

/-- DECS.F64 (43_scaler.md R174). -/
def execDecsF64 (bo : ByteOrder) (wo : WordOrder) (off : Nat) (s : State) :
    Host.Outcome State Fault Refusal :=
  .next (s.putDecodedScaled (decodedF64 bo wo off s))

end Sys2Proof.Machine
end

