-- ==== Sys2Proof/Machine/Enc.lean ====
section
/-! DEFINITION. The encode commands ENC.* (42_encode.md R140 to R150). For a numeric kind, `encoded<Kind>` is what the
encode of a binary64 value computes and `execEnc<Kind>` writes it for `VAL`; ENCS uses the same `encoded<Kind>`
(43_scaler.md R175). -/

namespace Sys2Proof.Machine

open Sys2Proof.Config

/-- `clampRoundInt` to a kind's range (40_datapath.md R91, R105). -/
def clampToKind (s : State) (k : Kind) (v : BitVec 64) : Int × Bool := clampRoundInt s.cfg.round v (loOf k) (hiOf k)

/-- The units of a 32-bit word (40_datapath.md R95). -/
def disassembled32 (s : State) (bo : ByteOrder) (wo : WordOrder) (w : BitVec 32) : List (BitVec 16) :=
  disassemble s.cfg wo bo 2 w.toNat

/-- The units of a 64-bit word (40_datapath.md R95). -/
def disassembled64 (s : State) (bo : ByteOrder) (wo : WordOrder) (w : BitVec 64) : List (BitVec 16) :=
  disassemble s.cfg wo bo 4 w.toNat

/-- What ENC.I16 computes (42_encode.md R141). -/
def encodedI16 (v : BitVec 64) (s : State) : Encoded :=
  let c := clampToKind s .i16 v
  ⟨[BitVec.ofInt 16 c.1], c.2⟩

/-- What ENC.U16 computes (42_encode.md R142). -/
def encodedU16 (v : BitVec 64) (s : State) : Encoded :=
  let c := clampToKind s .u16 v
  ⟨[BitVec.ofInt 16 c.1], c.2⟩

/-- What ENC.I32 computes (42_encode.md R143). -/
def encodedI32 (bo : ByteOrder) (wo : WordOrder) (v : BitVec 64) (s : State) : Encoded :=
  let c := clampToKind s .i32 v
  ⟨disassembled32 s bo wo (BitVec.ofInt 32 c.1), c.2⟩

/-- What ENC.U32 computes (42_encode.md R144). -/
def encodedU32 (bo : ByteOrder) (wo : WordOrder) (v : BitVec 64) (s : State) : Encoded :=
  let c := clampToKind s .u32 v
  ⟨disassembled32 s bo wo (BitVec.ofInt 32 c.1), c.2⟩

/-- What ENC.I64 computes (42_encode.md R145): exact in INTEGER mode, else the legacy path. -/
def encodedI64 (bo : ByteOrder) (wo : WordOrder) (v : BitVec 64) (s : State) : Encoded :=
  let c := clampToKind s .i64 v
  let w := if s.int64Mode then (BitVec.ofInt 64 c.1, c.2) else legacyEncode s.cfg .i64 v
  ⟨disassembled64 s bo wo w.1, w.2⟩

/-- What ENC.U64 computes (42_encode.md R146): exact in INTEGER mode, else the legacy path. -/
def encodedU64 (bo : ByteOrder) (wo : WordOrder) (v : BitVec 64) (s : State) : Encoded :=
  let c := clampToKind s .u64 v
  let w := if s.int64Mode then (BitVec.ofInt 64 c.1, c.2) else legacyEncode s.cfg .u64 v
  ⟨disassembled64 s bo wo w.1, w.2⟩

/-- What ENC.F32 computes (42_encode.md R147): no clamp; a NaN is drawn (93_implementation_defined.md I2). -/
def encodedF32 (bo : ByteOrder) (wo : WordOrder) (v : BitVec 64) (s : State) : Encoded :=
  ⟨disassembled32 s bo wo (cvt64to32 s.nan32 v), false⟩

/-- What ENC.F64 computes (42_encode.md R148): the 64 bits unchanged. -/
def encodedF64 (bo : ByteOrder) (wo : WordOrder) (v : BitVec 64) (s : State) : Encoded :=
  ⟨disassembled64 s bo wo v, false⟩

/-- ENC.I16 (42_encode.md R141). -/
def execEncI16 (_bo : ByteOrder) (_wo : WordOrder) (s : State) : Host.Outcome State Fault Refusal :=
  .next (s.putEncoded (encodedI16 s.val s) false)

/-- ENC.U16 (42_encode.md R142). -/
def execEncU16 (_bo : ByteOrder) (_wo : WordOrder) (s : State) : Host.Outcome State Fault Refusal :=
  .next (s.putEncoded (encodedU16 s.val s) false)

/-- ENC.I32 (42_encode.md R143). -/
def execEncI32 (bo : ByteOrder) (wo : WordOrder) (s : State) : Host.Outcome State Fault Refusal :=
  .next (s.putEncoded (encodedI32 bo wo s.val s) false)

/-- ENC.U32 (42_encode.md R144). -/
def execEncU32 (bo : ByteOrder) (wo : WordOrder) (s : State) : Host.Outcome State Fault Refusal :=
  .next (s.putEncoded (encodedU32 bo wo s.val s) false)

/-- ENC.I64 (42_encode.md R145). -/
def execEncI64 (bo : ByteOrder) (wo : WordOrder) (s : State) : Host.Outcome State Fault Refusal :=
  .next (s.putEncoded (encodedI64 bo wo s.val s) false)

/-- ENC.U64 (42_encode.md R146). -/
def execEncU64 (bo : ByteOrder) (wo : WordOrder) (s : State) : Host.Outcome State Fault Refusal :=
  .next (s.putEncoded (encodedU64 bo wo s.val s) false)

/-- ENC.F32 (42_encode.md R147). -/
def execEncF32 (bo : ByteOrder) (wo : WordOrder) (s : State) : Host.Outcome State Fault Refusal :=
  .next ((s.putEncoded (encodedF32 bo wo s.val s) false).drawn)

/-- ENC.F64 (42_encode.md R148). -/
def execEncF64 (bo : ByteOrder) (wo : WordOrder) (s : State) : Host.Outcome State Fault Refusal :=
  .next (s.putEncoded (encodedF64 bo wo s.val s) false)

/-- ENC.BOOL (42_encode.md R149): 0 for ±0, 1 for every other value, a NaN included. -/
def execEncBool (_bo : ByteOrder) (_wo : WordOrder) (s : State) : Host.Outcome State Fault Refusal :=
  .next (s.putEncoded ⟨[if isNaN64 s.val || !eq64 s.val 0 then 1 else 0], false⟩ false)

/-- ENC.STR (42_encode.md R150): the characters come from `UNIT[]`, those past `RAW_LEN` read as 0. -/
def execEncStr (_bo : ByteOrder) (_wo : WordOrder) (off n : Nat) (s : State) :
    Host.Outcome State Fault Refusal :=
  .next ((s.putUnits (fetchUnits s off n)).setStatus (fetchShort s off n) false false)

end Sys2Proof.Machine
end

