-- ==== Sys2Proof/Machine/Encs.lean ====
section
/-! DEFINITION. The fused scale-and-encode commands ENCS.* (43_scaler.md R175 to R182): `toRaw` of `VAL`, then the
encode of the raw value in place of `VAL`. -/

namespace Sys2Proof.Machine

/-- The writes of an ENCS command (43_scaler.md R175): DEGEN from `toRaw`, SAT from the encode; the draw is taken. -/
def State.putScaledEncoded (s : State) (e : Encoded) : State := (s.putEncoded e (toRaw s s.val).degen).drawn

/-- ENCS.I16 (43_scaler.md R175). -/
def execEncsI16 (_bo : ByteOrder) (_wo : WordOrder) (s : State) : Host.Outcome State Fault Refusal :=
  .next (s.putScaledEncoded (encodedI16 (toRaw s s.val).value s))

/-- ENCS.U16 (43_scaler.md R176). -/
def execEncsU16 (_bo : ByteOrder) (_wo : WordOrder) (s : State) : Host.Outcome State Fault Refusal :=
  .next (s.putScaledEncoded (encodedU16 (toRaw s s.val).value s))

/-- ENCS.I32 (43_scaler.md R177). -/
def execEncsI32 (bo : ByteOrder) (wo : WordOrder) (s : State) : Host.Outcome State Fault Refusal :=
  .next (s.putScaledEncoded (encodedI32 bo wo (toRaw s s.val).value s))

/-- ENCS.U32 (43_scaler.md R178). -/
def execEncsU32 (bo : ByteOrder) (wo : WordOrder) (s : State) : Host.Outcome State Fault Refusal :=
  .next (s.putScaledEncoded (encodedU32 bo wo (toRaw s s.val).value s))

/-- ENCS.I64 (43_scaler.md R179). -/
def execEncsI64 (bo : ByteOrder) (wo : WordOrder) (s : State) : Host.Outcome State Fault Refusal :=
  .next (s.putScaledEncoded (encodedI64 bo wo (toRaw s s.val).value s))

/-- ENCS.U64 (43_scaler.md R180). -/
def execEncsU64 (bo : ByteOrder) (wo : WordOrder) (s : State) : Host.Outcome State Fault Refusal :=
  .next (s.putScaledEncoded (encodedU64 bo wo (toRaw s s.val).value s))

/-- ENCS.F32 (43_scaler.md R181). -/
def execEncsF32 (bo : ByteOrder) (wo : WordOrder) (s : State) : Host.Outcome State Fault Refusal :=
  .next (s.putScaledEncoded (encodedF32 bo wo (toRaw s s.val).value s))

/-- ENCS.F64 (43_scaler.md R182). On equal engineering bounds a NaN in `RAW_LO` is stored with its own bits, not drawn
(DESIGN CHOICE: notes/assumptions/19.md). -/
def execEncsF64 (bo : ByteOrder) (wo : WordOrder) (s : State) : Host.Outcome State Fault Refusal :=
  .next (s.putScaledEncoded (encodedF64 bo wo (toRaw s s.val).value s))

end Sys2Proof.Machine
end

