-- ==== Sys2Proof/Machine/Dispatch.lean ====
section
/-! DEFINITION. One arm per command, each one direct call of its meaning. -/

namespace Sys2Proof.Machine

def exec (i : Instr) (s : State) : Host.Outcome State Fault Refusal :=
  match i with
  | .nop => Sys2Proof.Machine.execNop s
  | .decI16 bo wo off => Sys2Proof.Machine.execDecI16 bo wo off s
  | .decU16 bo wo off => Sys2Proof.Machine.execDecU16 bo wo off s
  | .decI32 bo wo off => Sys2Proof.Machine.execDecI32 bo wo off s
  | .decU32 bo wo off => Sys2Proof.Machine.execDecU32 bo wo off s
  | .decI64 bo wo off => Sys2Proof.Machine.execDecI64 bo wo off s
  | .decU64 bo wo off => Sys2Proof.Machine.execDecU64 bo wo off s
  | .decF32 bo wo off => Sys2Proof.Machine.execDecF32 bo wo off s
  | .decF64 bo wo off => Sys2Proof.Machine.execDecF64 bo wo off s
  | .decBool bo wo off => Sys2Proof.Machine.execDecBool bo wo off s
  | .decStr bo wo off n => Sys2Proof.Machine.execDecStr bo wo off n s
  | .encI16 bo wo => Sys2Proof.Machine.execEncI16 bo wo s
  | .encU16 bo wo => Sys2Proof.Machine.execEncU16 bo wo s
  | .encI32 bo wo => Sys2Proof.Machine.execEncI32 bo wo s
  | .encU32 bo wo => Sys2Proof.Machine.execEncU32 bo wo s
  | .encI64 bo wo => Sys2Proof.Machine.execEncI64 bo wo s
  | .encU64 bo wo => Sys2Proof.Machine.execEncU64 bo wo s
  | .encF32 bo wo => Sys2Proof.Machine.execEncF32 bo wo s
  | .encF64 bo wo => Sys2Proof.Machine.execEncF64 bo wo s
  | .encBool bo wo => Sys2Proof.Machine.execEncBool bo wo s
  | .encStr bo wo off n => Sys2Proof.Machine.execEncStr bo wo off n s
  | .toEng => Sys2Proof.Machine.execToEng s
  | .toRaw => Sys2Proof.Machine.execToRaw s
  | .decsI16 bo wo off => Sys2Proof.Machine.execDecsI16 bo wo off s
  | .decsU16 bo wo off => Sys2Proof.Machine.execDecsU16 bo wo off s
  | .decsI32 bo wo off => Sys2Proof.Machine.execDecsI32 bo wo off s
  | .decsU32 bo wo off => Sys2Proof.Machine.execDecsU32 bo wo off s
  | .decsI64 bo wo off => Sys2Proof.Machine.execDecsI64 bo wo off s
  | .decsU64 bo wo off => Sys2Proof.Machine.execDecsU64 bo wo off s
  | .decsF32 bo wo off => Sys2Proof.Machine.execDecsF32 bo wo off s
  | .decsF64 bo wo off => Sys2Proof.Machine.execDecsF64 bo wo off s
  | .encsI16 bo wo => Sys2Proof.Machine.execEncsI16 bo wo s
  | .encsU16 bo wo => Sys2Proof.Machine.execEncsU16 bo wo s
  | .encsI32 bo wo => Sys2Proof.Machine.execEncsI32 bo wo s
  | .encsU32 bo wo => Sys2Proof.Machine.execEncsU32 bo wo s
  | .encsI64 bo wo => Sys2Proof.Machine.execEncsI64 bo wo s
  | .encsU64 bo wo => Sys2Proof.Machine.execEncsU64 bo wo s
  | .encsF32 bo wo => Sys2Proof.Machine.execEncsF32 bo wo s
  | .encsF64 bo wo => Sys2Proof.Machine.execEncsF64 bo wo s

end Sys2Proof.Machine
end

