-- ==== Sys2Proof/Machine/Bus.lean ====
section
/-! DEFINITION. The host port (20_memory.md R50 to R56, R61): one event of the host served at a time, each completely
before the next. A write to `CMD` stores the word and executes it (10_state.md R27). -/

namespace Sys2Proof.Machine

/-- The offset of `CMD` (20_memory.md R51). -/
def cmdOffset : Nat := 0x00C

/-- The offset lies in the 4096-byte window (20_memory.md R50). -/
def inWindow (off : Nat) : Bool := decide (off < 0x1000)

/-- The access is one RWC accepts: 32 bits wide at a multiple of 4 (20_memory.md R52). -/
def accessOk (off width : Nat) : Bool := width == 32 && off % 4 == 0

/-- `BusRead(off)` of an accepted access (00_scope.md R11). -/
def busRead (off : Nat) (s : State) : BitVec 32 := readReg (regAt off) s

/-- Execution of the word a write to `CMD` stored (10_state.md R27, 30_encoding.md R82): a legal word's command, or ILL
(60_exceptions.md R201). -/
def runCommand (w : BitVec 32) (s : State) : Host.Outcome State Fault Refusal :=
  match decode w with
  | .ok i => exec i s
  | .error _ => .next (raiseIll s)

/-- `BusWrite(off, v)` of an accepted access (00_scope.md R11). -/
def busWrite (off : Nat) (v : BitVec 32) (s : State) : Host.Outcome State Fault Refusal :=
  if regAt off = .cmd then runCommand v (writeReg .cmd v s) else .next (writeReg (regAt off) v s)

/-- One host event (20_memory.md R61). BUSERR is judged before the access reaches any register (60_exceptions.md
R204), and every access gets it while reset is asserted (70_reset_and_hazards.md R220). -/
def serve (e : HostEvent) (s : State) : Host.Outcome State Fault Refusal :=
  match e with
  | .read off width =>
    if inWindow off then
      if accessOk off width && !s.inReset then .next (s.respond (.data (busRead off s)))
      else .next (raiseBusErr true s)
    else .fault .outsideWindow
  | .write off width v =>
    if inWindow off then
      if accessOk off width && !s.inReset then busWrite off v (s.respond .done)
      else .next (raiseBusErr false s)
    else .fault .outsideWindow
  | .resetLine asserted => .next (setResetLine asserted s)

/-- The next event of the host served, or nothing: RWC waits for host accesses (70_reset_and_hazards.md R222). -/
def serveNext (s : State) : Host.Outcome State Fault Refusal :=
  match s.pending with
  | [] => .next s
  | e :: rest => serve e { s with pending := rest }

/-- The event that writes a word to `CMD`. -/
def commandEvent (w : BitVec 32) : HostEvent := .write cmdOffset 32 w

/-- The two accesses of `W64` (30_encoding.md R85): the low half, then the high half at offset + 4. -/
def hostWrite64 (off : Nat) (v : BitVec 64) : List HostEvent :=
  [.write off 32 (getHalf .low v), .write (off + 4) 32 (getHalf .high v)]

/-- The two accesses of `R64` (30_encoding.md R85). -/
def hostRead64 (off : Nat) : List HostEvent := [.read off 32, .read (off + 4) 32]

/-- The state with a command word as the very next event and the reset line released, so that the next step runs it. -/
def issueCommand (w : BitVec 32) (s : State) : State :=
  { s with inReset := false, pending := commandEvent w :: s.pending }

end Sys2Proof.Machine
end

