-- ==== Sys2Proof/Machine/Step.lean ====
section
/-! DEFINITION. One step of the machine (20_memory.md R61, 70_reset_and_hazards.md R231): one host event, a write to
`CMD` executing its whole command in the same step. -/

namespace Sys2Proof.Machine

/-- One step: the next host event served, or waiting for one. -/
def step (s : State) : Host.Outcome State Fault Refusal := serveNext s

/-- `s` with the 32-bit command word `w` as the host's very next access, a write to `CMD` (notes/assumptions/3.md). -/
def State.withFetchWord (s : State) (nbits w : Nat) : State := issueCommand (BitVec.ofNat 32 (w % 2 ^ nbits)) s

end Sys2Proof.Machine
end

