-- ==== Sys2Proof/Safety.lean ====
section
/-! DEFINITION. What counts as a legal state and a safe run of RWC. -/

namespace Sys2Proof.Machine

/-- The values the spec lets the registers take: `RAW_LEN` and `OUT_LEN` in 0..256 (10_state.md R29, R30), ILL never
with another flag (60_exceptions.md R203), and `RES` as its type says (10_state.md R31): nothing yet, a boolean, or a
string length. -/
abbrev State.Legal (s : State) : Prop :=
  s.rawLen.toNat ≤ 256 ∧ s.outLen.toNat ≤ 256 ∧ (s.ill = true → s.status = 0x1#4) ∧
    (s.resType = .none → s.res = 0) ∧ (s.resType = .bool → s.res = 0 ∨ s.res = 1) ∧
    (s.resType = .str → 1 ≤ s.res.toNat ∧ s.res.toNat ≤ 256)

/-- The host event is an access inside the window, or no access (20_memory.md R50). -/
def HostEvent.inWindow : HostEvent → Bool
  | .read off _ => Machine.inWindow off
  | .write off _ _ => Machine.inWindow off
  | .resetLine _ => true

/-- The host's pending accesses all lie in the window: no step can fault. -/
abbrev State.HostInWindow (s : State) : Prop := ∀ e ∈ s.pending, e.inWindow = true

end Sys2Proof.Machine
end

