-- ==== Sys2Proof/Certificates/Slice0/Obligations.lean ====
section
/-! DEFINITION. The statements for the provers. `Sys2Proof.Claims` holds the closed forms they compare the model with;
each is written from the spec's tables, not from the model's functions. -/

open Sys2Proof Sys2Proof.Machine Sys2Proof.Config

namespace Sys2Proof.Claims

/-- The host's very next access is a write of `w` to `CMD`, and the reset line is released. -/
abbrev Ready (s : State) (w : BitVec 32) (rest : List HostEvent) : Prop :=
  s.inReset = false ∧ s.pending = .write 0x00C 32 w :: rest

/-- The field of a word at bits `lo + n - 1` to `lo`, as a number (00_scope.md R8). -/
def field (w : BitVec 32) (lo n : Nat) : Nat := w.toNat / 2 ^ lo % 2 ^ n

/-- The illegal words as 30_encoding.md R80 lists them, the must-be-0 fields as the table of R79 has them. -/
def IllegalByTable (w : BitVec 32) : Prop :=
  let op := field w 0 4
  let kind := field w 4 4
  let off := field w 16 8
  let slen := field w 24 8
  field w 11 5 ≠ 0 ∨ 7 ≤ op ∨ ((op = 1 ∨ op = 2) ∧ 0xA ≤ kind) ∨ ((op = 5 ∨ op = 6) ∧ 8 ≤ kind) ∨
    ((op = 0 ∨ op = 3 ∨ op = 4) ∧ field w 4 28 ≠ 0) ∨
    ((op = 1 ∨ op = 5) ∧ kind ≤ 8 ∧ slen ≠ 0) ∨
    ((op = 2 ∨ op = 6) ∧ kind ≤ 8 ∧ (off ≠ 0 ∨ slen ≠ 0))

/-- The two bytes of a unit exchanged where `swap` says so (00_scope.md R9). -/
def byteSwapped (swap : Bool) (u : BitVec 16) : BitVec 16 :=
  if swap then u.extractLsb' 0 8 ++ u.extractLsb' 8 8 else u

/-- CDAB and DCBA. -/
def isReversing (wo : WordOrder) : Bool := wo == .cdab || wo == .dcba

/-- Whether the bytes inside each unit end up exchanged: BADC and DCBA under `P_LETTER_BSWAP`, once more under a
little-endian byte reversal (40_datapath.md R92, R94). -/
def bytesExchanged (p : Params) (wo : WordOrder) (bo : ByteOrder) : Bool :=
  (p.letterBswap && (wo == .badc || wo == .dcba)) ^^ (bo == .le && p.leReading == .byteReverse)

/-- The 32-bit word that the units `[UNIT[o], UNIT[o+1]] = [a, b]` hold (the table of 40_datapath.md R97 and its
parameter variants, in closed form): little-endian and a reversing word order undo each other. -/
def word32 (p : Params) (wo : WordOrder) (bo : ByteOrder) (a b : BitVec 16) : BitVec 32 :=
  let x := byteSwapped (bytesExchanged p wo bo)
  if isReversing wo ^^ (bo == .le) then x b ++ x a else x a ++ x b

/-- The 64-bit word that four units hold (the table of 40_datapath.md R98 and its parameter variants). -/
def word64 (p : Params) (wo : WordOrder) (bo : ByteOrder) (a b c d : BitVec 16) : BitVec 64 :=
  let x := byteSwapped (bytesExchanged p wo bo)
  match isReversing wo, bo, p.wo64 with
  | false, .be, _ => x a ++ x b ++ x c ++ x d
  | false, .le, _ => x d ++ x c ++ x b ++ x a
  | true, .be, .reverse4 => x d ++ x c ++ x b ++ x a
  | true, .le, .reverse4 => x a ++ x b ++ x c ++ x d
  | true, .be, .pairSwap => x b ++ x a ++ x d ++ x c
  | true, .le, .pairSwap => x c ++ x d ++ x a ++ x b

/-- `STATUS` after a DEC: SHORT exactly when `k` units from `off` end past `RAW_LEN` (40_datapath.md R90). -/
def shortStatus (s : State) (off k : Nat) : BitVec 4 := if s.rawLen.toNat < off + k then 0x2#4 else 0x0#4

/-- `STATUS` after an ENC: SAT or nothing (10_state.md R26). -/
def satStatus (sat : Bool) : BitVec 4 := if sat then 0x8#4 else 0x0#4

/-- `STATUS` after a scaler command, from its three flags (10_state.md R26). -/
def flagStatus (short degen sat : Bool) : BitVec 4 :=
  BitVec.ofNat 4 ((if short then 2 else 0) + (if degen then 4 else 0) + (if sat then 8 else 0))

/-- `U(i)` (40_datapath.md R90) for the indices the window has; past it every unit is missing. -/
def unitRead (s : State) (i : Nat) : BitVec 16 :=
  if h : i < 256 then (if i < s.rawLen.toNat then s.unit[i] else 0) else 0

/-- The 32-bit word at offset `off` of the window (40_datapath.md R97). -/
def read32 (s : State) (wo : WordOrder) (bo : ByteOrder) (off : Nat) : BitVec 32 :=
  word32 s.cfg wo bo (unitRead s off) (unitRead s (off + 1))

/-- The 64-bit word at offset `off` of the window (40_datapath.md R98). -/
def read64 (s : State) (wo : WordOrder) (bo : ByteOrder) (off : Nat) : BitVec 64 :=
  word64 s.cfg wo bo (unitRead s off) (unitRead s (off + 1)) (unitRead s (off + 2)) (unitRead s (off + 3))

/-- The exact value of a finite pattern, in smallest subnormals of its format; 0 for the others. -/
def exactMag (f : Format) (q : Nat) : Nat :=
  match f.decode q with
  | .fin _ m => m
  | _ => 0

/-- `t` is the state an ENC of one unit leaves: `OUT[0] = u`, `OUT_LEN = 1`, `STATUS`, nothing else. -/
def Wrote1 (s t : State) (u : BitVec 16) (status : BitVec 4) : Prop :=
  t = { s with out := t.out, outLen := 1, status := status } ∧ t.out[0] = u ∧
    ∀ j (_ : j < 256), 1 ≤ j → t.out[j] = s.out[j]

/-- `t` is the state an ENC of two units leaves: `OUT[0..1]` hold the word `w` in the given orders, `OUT_LEN = 2`,
`STATUS` and the draw counter as given, nothing else. -/
def Wrote2 (s t : State) (wo : WordOrder) (bo : ByteOrder) (w : BitVec 32) (status : BitVec 4) (draws : Nat) : Prop :=
  t = { s with out := t.out, outLen := 2, status := status, draws := draws } ∧
    word32 s.cfg wo bo t.out[0] t.out[1] = w ∧ ∀ j (_ : j < 256), 2 ≤ j → t.out[j] = s.out[j]

/-- `t` is the state an ENC of four units leaves: `OUT[0..3]` hold the word `w` in the given orders, `OUT_LEN = 4`,
`STATUS`, nothing else. -/
def Wrote4 (s t : State) (wo : WordOrder) (bo : ByteOrder) (w : BitVec 64) (status : BitVec 4) : Prop :=
  t = { s with out := t.out, outLen := 4, status := status } ∧
    word64 s.cfg wo bo t.out[0] t.out[1] t.out[2] t.out[3] = w ∧ ∀ j (_ : j < 256), 4 ≤ j → t.out[j] = s.out[j]

/-- The state in which `OUT[0..OUT_LEN-1]` has been copied to the input window. -/
def copiedBack (t : State) : State := { t with unit := t.out, rawLen := t.outLen }

/-- The two states have the same operand registers and parameters, and draw the same free values. -/
abbrev SameOperands (s t : State) : Prop :=
  s.ctrl = t.ctrl ∧ s.scfg = t.scfg ∧ s.rawLen = t.rawLen ∧ s.rawLo = t.rawLo ∧ s.rawHi = t.rawHi ∧
    s.engLo = t.engLo ∧ s.engHi = t.engHi ∧ s.val = t.val ∧ s.unit = t.unit ∧ s.draws = t.draws ∧ s.cfg = t.cfg

/-- What a host reads back after writing `v` where `old` was read before (10_state.md R21 to R36, 20_memory.md R53,
R54): the legal bits, the clamped length, or the old value where the write is ignored. -/
def readBack (off : Nat) (old v : BitVec 32) : BitVec 32 :=
  if off = 0x004 then v &&& 0x7#32
  else if off = 0x010 then v &&& 0x1#32
  else if off = 0x014 then (if v.toNat ≤ 256 then v else 256#32)
  else if 0x020 ≤ off ∧ off ≤ 0x044 then v
  else if 0x400 ≤ off ∧ off < 0x800 then v &&& 0xFFFF#32
  else old

/-- A half of a 64-bit register as a 32-bit number (20_memory.md R55). -/
def lowHalf (v : BitVec 64) : Nat := v.toNat % 2 ^ 32

/-- See `lowHalf`. -/
def highHalf (v : BitVec 64) : Nat := v.toNat / 2 ^ 32

/-- The codes of `RES_TYPE` (10_state.md R31). -/
def typeCode : ResType → Nat
  | .none => 0
  | .int => 1
  | .uint => 2
  | .f64 => 3
  | .bool => 4
  | .str => 5

/-- The number a 32-bit slot of the window reads as (the map of 20_memory.md R51, the layouts of 10_state.md R21 to
R36): undefined bits and reserved slots are 0. -/
def slotValue (s : State) (off : Nat) : Nat :=
  match off with
  | 0x000 => 0x52574331
  | 0x004 => s.ctrl.toNat
  | 0x008 => s.status.toNat
  | 0x00C => s.cmd.toNat
  | 0x010 => s.scfg.toNat
  | 0x014 => s.rawLen.toNat
  | 0x018 => s.outLen.toNat
  | 0x01C => typeCode s.resType
  | 0x020 => lowHalf s.rawLo
  | 0x024 => highHalf s.rawLo
  | 0x028 => lowHalf s.rawHi
  | 0x02C => highHalf s.rawHi
  | 0x030 => lowHalf s.engLo
  | 0x034 => highHalf s.engLo
  | 0x038 => lowHalf s.engHi
  | 0x03C => highHalf s.engHi
  | 0x040 => lowHalf s.val
  | 0x044 => highHalf s.val
  | 0x048 => lowHalf s.res
  | 0x04C => highHalf s.res
  | off =>
    if h : 0x400 ≤ off ∧ off < 0x800 then s.unit[(off - 0x400) / 4].toNat
    else if h : 0x800 ≤ off ∧ off < 0xC00 then s.out[(off - 0x800) / 4].toNat
    else 0

/-- The `OP` code of a mnemonic (30_encoding.md R72). -/
def opCode : Mnemonic → Nat
  | .nop => 0x0
  | .dec _ => 0x1
  | .enc _ => 0x2
  | .toEng => 0x3
  | .toRaw => 0x4
  | .decs _ => 0x5
  | .encs _ => 0x6

/-- The kind suffix of a mnemonic (30_encoding.md R83). -/
def kindOf : Mnemonic → Option Kind
  | .dec k => some k
  | .enc k => some k
  | .decs k => some k
  | .encs k => some k
  | _ => none

/-- The `KIND` code (30_encoding.md R73). -/
def kindCode : Kind → Nat
  | .i16 => 0x0
  | .u16 => 0x1
  | .i32 => 0x2
  | .u32 => 0x3
  | .i64 => 0x4
  | .u64 => 0x5
  | .f32 => 0x6
  | .f64 => 0x7
  | .bool => 0x8
  | .str => 0x9

/-- The `BO` code (30_encoding.md R74). -/
def orderCode : ByteOrder → Nat
  | .be => 0
  | .le => 1

/-- The `WO` code (30_encoding.md R75). -/
def wordOrderCode : WordOrder → Nat
  | .abcd => 0
  | .cdab => 1
  | .badc => 2
  | .dcba => 3

/-- The line is one that the syntax of 30_encoding.md R83 admits: every operand stands on a command that has it and lies
in its range, and a FixedString has its `n`. -/
def LineFits (l : AsmLine) : Prop :=
  let offFits := ∀ o, l.off = some o → o < 256
  let noOrders := l.bo = none ∧ l.wo = none
  match l.name with
  | .nop => noOrders ∧ l.off = none ∧ l.n = none
  | .toEng => noOrders ∧ l.off = none ∧ l.n = none
  | .toRaw => noOrders ∧ l.off = none ∧ l.n = none
  | .dec .str => noOrders ∧ offFits ∧ ∃ n, l.n = some n ∧ 1 ≤ n ∧ n ≤ 256
  | .enc .str => noOrders ∧ offFits ∧ ∃ n, l.n = some n ∧ 1 ≤ n ∧ n ≤ 256
  | .dec _ => offFits ∧ l.n = none
  | .enc _ => l.off = none ∧ l.n = none
  | .decs k => k ≠ .bool ∧ k ≠ .str ∧ offFits ∧ l.n = none
  | .encs k => k ≠ .bool ∧ k ≠ .str ∧ l.off = none ∧ l.n = none

/-- The word of an admitted line as a number: its fields at their places (30_encoding.md R71), an omitted operand at
its default (R83), `SLEN = n - 1` (R77). -/
def lineWord (l : AsmLine) : Nat :=
  opCode l.name + 2 ^ 4 * ((kindOf l.name).map kindCode).getD 0 + 2 ^ 8 * (l.bo.map orderCode).getD 0 +
    2 ^ 9 * (l.wo.map wordOrderCode).getD 0 + 2 ^ 16 * l.off.getD 0 + 2 ^ 24 * (l.n.map (· - 1)).getD 0

/-- A finite datum's exact value, in smallest subnormals. -/
def exactValue (neg : Bool) (m : Nat) : Int := if neg then -(m : Int) else m

/-- The binary64 pattern of sign `neg` and the rounding of `n / d` smallest subnormals. -/
def rounded64 (neg : Bool) (n d : Nat) : BitVec 64 :=
  BitVec.ofNat 64 ((if neg then 2 ^ 63 else 0) + binary64.roundMag n d)

/-- The scaler's input `x` for a decoded result (43_scaler.md R164); a numeric kind has one of the three types. -/
def ScalerInput (res : BitVec 64) (type : ResType) (x : BitVec 64) : Prop :=
  (type = .int ∧ x = rne64 res.toInt) ∨ (type = .uint ∧ x = rne64 res.toNat) ∨ (type = .f64 ∧ x = res)

/-- `decs` is the DEC `dec` with its value given to TOENG instead of written (43_scaler.md R167). -/
def ScalesDecode (s : State) (dec decs : Instr) : Prop :=
  ∃ d x e, exec dec s = .next d ∧ ScalerInput d.res d.resType x ∧ exec .toEng { s with val := x } = .next e ∧
    exec decs s = .next { s with
      res := e.res, resType := .f64, status := flagStatus d.short e.degen e.sat, draws := s.draws + 1 }

/-- `encs` is the ENC `enc` of what TORAW gives in place of `VAL`, with DEGEN from TORAW (43_scaler.md R175). -/
def ScalesEncode (s : State) (enc encs : Instr) : Prop :=
  ∃ r e, exec .toRaw s = .next r ∧ exec enc { s with val := r.res } = .next e ∧
    exec encs s = .next { s with
      out := e.out, outLen := e.outLen, status := flagStatus false r.degen e.sat, draws := s.draws + 1 }

end Sys2Proof.Claims

open Sys2Proof.Claims

/-! ### The command word -/

/-- Every well-formed command is read back from its own word. -/
def Obligations.EncodedCommandsDecodeBack : Prop :=
  ∀ i : Instr, i.WellFormed → decode (encode i) = .ok i

/-- Every legal word is the word of the command it decodes to: no bit of it is dropped, ignored fields included. -/
def Obligations.LegalWordsEncodeBack : Prop :=
  ∀ (w : BitVec 32) (i : Instr), decode w = .ok i → encode i = w ∧ i.WellFormed

/-- The table of R79: a word selects a row by mask and match exactly when the decoder reads that row's command. -/
def Obligations.WordSelectsTheRowItDecodesTo : Prop :=
  ∀ (w : BitVec 32) (r : OpcodeRow), r ∈ opcodeRows →
    (w &&& r.mask = r.pattern ↔ ∃ i, decode w = .ok i ∧ i.mnemonic = r.name)

/-- The rows of R79 are disjoint. -/
def Obligations.OpcodeRowsAreDisjoint : Prop :=
  ∀ (w : BitVec 32) (r r' : OpcodeRow), r ∈ opcodeRows → r' ∈ opcodeRows →
    w &&& r.mask = r.pattern → w &&& r'.mask = r'.pattern → r = r'

/-- R80: the words listed there are exactly those that match no row, and exactly those the decoder rejects. -/
def Obligations.IllegalWordsAreThoseListed : Prop :=
  ∀ w : BitVec 32, (IllegalByTable w ↔ ∀ r ∈ opcodeRows, w &&& r.mask ≠ r.pattern) ∧
    (IllegalByTable w ↔ ∃ e, decode w = .error e)

/-- Words written out bit by bit from R71 to R75 decode to the commands they stand for. -/
def Obligations.DecodesWordsWrittenOut : Prop :=
  decode 0x00030321#32 = .ok (.decI32 .le .cdab 3) ∧
    decode (0x09#8 ++ 0x00#8 ++ 0b00000#5 ++ 0b00#2 ++ 0b0#1 ++ 0x9#4 ++ 0x1#4) = .ok (.decStr .be .abcd 0 10) ∧
    decode (0x00#8 ++ 0x00#8 ++ 0b00000#5 ++ 0b11#2 ++ 0b1#1 ++ 0x7#4 ++ 0x2#4) = .ok (.encF64 .le .dcba) ∧
    decode (0x00#8 ++ 0xFF#8 ++ 0b00000#5 ++ 0b10#2 ++ 0b0#1 ++ 0x5#4 ++ 0x5#4) = .ok (.decsU64 .be .badc 255) ∧
    decode (0x00#8 ++ 0x00#8 ++ 0b00000#5 ++ 0b01#2 ++ 0b1#1 ++ 0x0#4 ++ 0x6#4) = .ok (.encsI16 .le .cdab) ∧
    decode 0x00000003#32 = .ok .toEng ∧ decode 0x00000004#32 = .ok .toRaw ∧ decode 0x00000000#32 = .ok .nop

/-- R83: for every assembler line, one the syntax admits gives the word of its fields, and every other (an operand out
of range, an operand the command has no field for, a FixedString without `n`, a kind the operation does not have) is
rejected. That `bo` and `wo` have no place on a FixedString is read from the syntax lines (notes/assumptions/18.md). -/
def Obligations.AssemblerRejectsBadOperands : Prop :=
  ∀ l : AsmLine, (LineFits l → ∃ w, assembleLine l = some w ∧ w.toNat = lineWord l) ∧
    (¬ LineFits l → assembleLine l = none)

/-! ### The host port and reset -/

/-- A step that serves a write of a legal word to `CMD` is `exec` of the decoded command, on the state in which the
word stands in `CMD`, the access is taken from the host's list and its response is given (the list and the response
are the model's own fields: notes/assumptions/3.md and 4.md). -/
def Obligations.StepRunsTheDecodedCommand : Prop :=
  ∀ (s : State) (w : BitVec 32) (rest : List HostEvent) (i : Instr), Ready s w rest → decode w = .ok i →
    step s = exec i { s with pending := rest, response := .done, cmd := w }

/-- R201: an illegal word is held in `CMD`, sets `STATUS` to ILL alone, and changes no other register; the machine
goes on. -/
def Obligations.IllegalCommandOnlySetsIll : Prop :=
  ∀ (s : State) (w : BitVec 32) (rest : List HostEvent), Ready s w rest → IllegalByTable w →
    ∃ t, step s = .next t ∧
      t = { s with cmd := w, status := 0x1#4, pending := t.pending, response := t.response }

/-- R52, R202: an access inside the window that is not 32 bits wide at a multiple of 4 gets the error response and
changes no register, even when it targets `CMD`. Whether the bus can carry the response is a parameter of the model
(notes/assumptions/6.md). -/
def Obligations.BadAccessGetsBusErr : Prop :=
  ∀ (s : State) (rest : List HostEvent) (off width : Nat) (v : BitVec 32), off < 4096 →
    width ≠ 32 ∨ off % 4 ≠ 0 → s.cfg.busErrorSignalled = true →
    (s.pending = .read off width :: rest → step s = .next { s with pending := rest, response := .busErr }) ∧
    (s.pending = .write off width v :: rest → step s = .next { s with pending := rest, response := .busErr })

/-- R220: while reset is asserted every access inside the window gets the error response and changes no register. What
the response is on a bus that cannot carry an error is a parameter of the model, and what a write then looks like its
choice (notes/assumptions/6.md). Asserting the line, and giving it the level it has, leaves every register: the model's
reading (notes/assumptions/5.md). -/
def Obligations.AccessInResetGetsBusErr : Prop :=
  ∀ (s : State) (rest : List HostEvent) (off width : Nat) (v : BitVec 32),
    (off < 4096 → s.inReset = true → s.pending = .read off width :: rest →
      step s = .next { s with
        pending := rest, response := if s.cfg.busErrorSignalled then .busErr else .data 0#32 }) ∧
    (off < 4096 → s.inReset = true → s.pending = .write off width v :: rest →
      step s = .next { s with pending := rest, response := if s.cfg.busErrorSignalled then .busErr else .done }) ∧
    (s.pending = .resetLine true :: rest → step s = .next { s with pending := rest, inReset := true }) ∧
    (s.inReset = false → s.pending = .resetLine false :: rest → step s = .next { s with pending := rest })

/-- R202's other case: where the host bus cannot carry an error, a bad read, or any read while reset is asserted,
returns 0x00000000. That a bad write then looks accepted is the model's choice (notes/assumptions/6.md). -/
def Obligations.BadAccessWithoutErrorLine : Prop :=
  ∀ (s : State) (rest : List HostEvent) (off width : Nat) (v : BitVec 32), off < 4096 →
    width ≠ 32 ∨ off % 4 ≠ 0 ∨ s.inReset = true → s.cfg.busErrorSignalled = false →
    (s.pending = .read off width :: rest → step s = .next { s with pending := rest, response := .data 0 }) ∧
    (s.pending = .write off width v :: rest → step s = .next { s with pending := rest, response := .done })

/-- R220, R221: when an asserted reset is released, a host that then reads any slot of the window reads 0x52574331 at
`ID` and 0 everywhere else; the parameters are those the instance was built with. -/
def Obligations.ResetReleaseRestoresResetValues : Prop :=
  ∀ (s : State) (rest : List HostEvent), s.inReset = true → s.pending = .resetLine false :: rest →
    ∃ t, step s = .next t ∧ t.inReset = false ∧ t.cfg = s.cfg ∧
      ∀ off, off < 4096 → off % 4 = 0 → busRead off t = if off = 0 then 0x52574331#32 else 0#32

/-- R221: the same of the machine's reset state. -/
def Obligations.ResetStateReadsAsTheTable : Prop :=
  State.reset.inReset = false ∧
    ∀ off, off < 4096 → off % 4 = 0 → busRead off State.reset = if off = 0 then 0x52574331#32 else 0#32

/-- R51, R56 and the layouts of R21 to R36: every slot reads as the map of the window says, and a read returns that
value and changes no register. -/
def Obligations.ReadsHaveNoSideEffect : Prop :=
  ∀ (s : State) (off : Nat), off < 4096 → off % 4 = 0 →
    busRead off s = BitVec.ofNat 32 (slotValue s off) ∧
    ∀ rest, s.inReset = false → s.pending = .read off 32 :: rest →
      step s = .next { s with pending := rest, response := .data (BitVec.ofNat 32 (slotValue s off)) }

/-- R53, R54: a write to a reserved slot or a read-only register changes no register, and a read of a reserved slot
gives 0 and changes no register. -/
def Obligations.IgnoredWritesChangeNothing : Prop :=
  ∀ (s : State) (rest : List HostEvent) (off : Nat) (v : BitVec 32), off < 4096 → off % 4 = 0 → s.inReset = false →
    (off ∈ [0x000, 0x008, 0x018, 0x01C, 0x048, 0x04C] ∨ (0x050 ≤ off ∧ off < 0x400) ∨ 0x800 ≤ off) →
    (s.pending = .write off 32 v :: rest →
      ∃ t, step s = .next t ∧ t = { s with pending := t.pending, response := t.response } ∧ t.response ≠ .busErr) ∧
    ((0x050 ≤ off ∧ off < 0x400) ∨ 0xC00 ≤ off → s.pending = .read off 32 :: rest →
      ∃ t, step s = .next t ∧ t = { s with pending := t.pending, response := .data 0#32 })

/-- R22, R28, R29, R33 to R36, R55, R56: an aligned write other than to `CMD` stores what its register keeps of it,
and no other slot of the window reads differently; the parameters and draws are untouched. The access is taken from
the host's list and answered (notes/assumptions/3.md and 4.md). -/
def Obligations.WriteStoresItsSlotOnly : Prop :=
  ∀ (s : State) (rest : List HostEvent) (off : Nat) (v : BitVec 32), off < 4096 → off % 4 = 0 → off ≠ 0x00C →
    s.inReset = false → s.pending = .write off 32 v :: rest →
    ∃ t, step s = .next t ∧ t.pending = rest ∧ t.response = .done ∧ t.inReset = false ∧ t.cfg = s.cfg ∧
      t.draws = s.draws ∧ busRead off t = readBack off (busRead off s) v ∧
      ∀ off', off' < 4096 → off' % 4 = 0 → off' ≠ off → busRead off' t = busRead off' s

/-- R222: the machine waits for host accesses. That a step with none pending changes nothing is the model's reading
(notes/assumptions/8.md). -/
def Obligations.WaitsForTheHost : Prop :=
  ∀ s : State, s.pending = [] → step s = .next s

/-- The model's choice (notes/assumptions/7.md): an access outside the window of R50 is none of RWC's, and the model
stops. -/
def Obligations.AccessOutsideWindowFaults : Prop :=
  ∀ (s : State) (rest : List HostEvent) (off width : Nat) (v : BitVec 32), 4096 ≤ off →
    (s.pending = .read off width :: rest ∨ s.pending = .write off width v :: rest) →
    step s = .fault .outsideWindow

/-! ### The whole machine -/

/-- The values the spec lets the registers take are kept by every step, from every state that has them. -/
def Obligations.StepKeepsRegistersLegal : Prop :=
  ∀ s t : State, s.Legal → step s = .next t → t.Legal

/-- The reset state has legal register values. -/
def Obligations.ResetStateIsLegal : Prop := State.reset.Legal

/-- R200: a run whose host stays in the window never stops, whatever its accesses, words and operands. -/
def Obligations.RunsInTheWindowNeverStop : Prop :=
  ∀ (k : Nat) (s : State), s.HostInWindow →
    ∃ t : State, Host.Core.run Sys2Proof.core k s = .next t ∧ t.HostInWindow ∧ (s.Legal → t.Legal) ∧ t.cfg = s.cfg

/-- R200: every command completes in every state, and none leaves ILL set. -/
def Obligations.EveryCommandCompletes : Prop :=
  ∀ (i : Instr) (s : State), ∃ t, exec i s = .next t ∧ t.ill = false

/-- R34, R35, R120, R140: no command writes an operand register, `CMD`, or anything of the host's side. -/
def Obligations.NoCommandWritesItsOperands : Prop :=
  ∀ (i : Instr) (s t : State), exec i s = .next t →
    t = { s with status := t.status, res := t.res, resType := t.resType, out := t.out, outLen := t.outLen,
                 draws := t.draws }

/-- R36, R106, R228: a command writes a prefix of `OUT[]` of the length it leaves in `OUT_LEN`, or does not touch
`OUT[]` and `OUT_LEN`; and it writes `RES` or leaves `RES` and `RES_TYPE`. -/
def Obligations.CommandsWriteAnOutputPrefix : Prop :=
  ∀ (i : Instr) (s t : State), i.WellFormed → exec i s = .next t →
    (t.out = s.out ∧ t.outLen = s.outLen ∨
      (1 ≤ t.outLen.toNat ∧ t.outLen.toNat ≤ 256 ∧
        ∀ j (_ : j < 256), t.outLen.toNat ≤ j → t.out[j] = s.out[j])) ∧
    (t.res = s.res ∧ t.resType = s.resType ∨ t.resType ≠ .none)

/-- R6, R221: no step changes a parameter. That parameters stand in State is the model's choice
(notes/assumptions/2.md). -/
def Obligations.NoStepChangesParameters : Prop :=
  ∀ s t : State, step s = .next t → t.cfg = s.cfg

/-- R56: running a command again, with the same draws (notes/assumptions/1.md), changes nothing. -/
def Obligations.RepeatedCommandChangesNothing : Prop :=
  ∀ (i : Instr) (s t : State), exec i s = .next t → exec i { t with draws := s.draws } = .next t

/-- R39: what a command writes depends only on its operand registers: from two states with the same operands it leaves
the same `STATUS`, writes the same result or none in both, and writes the same outputs or none in both. The draw
counter counts as an operand: it stands for the free input of R13 (notes/assumptions/1.md). -/
def Obligations.CommandsSeeOnlyTheirOperands : Prop :=
  ∀ (i : Instr) (s s' : State), SameOperands s s' →
    ∃ t t', exec i s = .next t ∧ exec i s' = .next t' ∧ t.status = t'.status ∧ t.draws = t'.draws ∧
      (t.res = t'.res ∧ t.resType = t'.resType ∨
        (t.res = s.res ∧ t.resType = s.resType ∧ t'.res = s'.res ∧ t'.resType = s'.resType)) ∧
      (t.outLen = t'.outLen ∨ t.outLen = s.outLen ∧ t'.outLen = s'.outLen) ∧
      ∀ j (_ : j < 256), t.out[j] = t'.out[j] ∨ t.out[j] = s.out[j] ∧ t'.out[j] = s'.out[j]

/-! ### NOP and the decode commands -/

/-- R190: the word 0 is NOP, which clears `STATUS` and changes nothing else (`CMD` included, which then holds 0: see
`StepRunsTheDecodedCommand`); a word with OP = 0 and any other bit set is no NOP but illegal. -/
def Obligations.NopClearsStatus : Prop :=
  decode 0#32 = .ok .nop ∧ (∀ w : BitVec 32, field w 0 4 = 0 → w ≠ 0#32 → ∃ e, decode w = .error e) ∧
    ∀ s : State, exec .nop s = .next { s with status := 0 }

/-- R121, R122: DEC.I16 sign-extends and DEC.U16 zero-extends one unit, whatever BO and WO. -/
def Obligations.Decode16BitKinds : Prop :=
  ∀ (bo : ByteOrder) (wo : WordOrder) (off : Nat) (s : State),
    exec (.decI16 bo wo off) s = .next { s with
      res := BitVec.ofInt 64 (unitRead s off).toInt, resType := .int, status := shortStatus s off 1 } ∧
    exec (.decU16 bo wo off) s = .next { s with
      res := BitVec.ofNat 64 (unitRead s off).toNat, resType := .uint, status := shortStatus s off 1 }

/-- R123, R124, R97: DEC.I32 and DEC.U32 read the word that the table of orders places in two units. -/
def Obligations.Decode32BitIntegers : Prop :=
  ∀ (bo : ByteOrder) (wo : WordOrder) (off : Nat) (s : State),
    exec (.decI32 bo wo off) s = .next { s with
      res := BitVec.ofInt 64 (read32 s wo bo off).toInt, resType := .int, status := shortStatus s off 2 } ∧
    exec (.decU32 bo wo off) s = .next { s with
      res := BitVec.ofNat 64 (read32 s wo bo off).toNat, resType := .uint, status := shortStatus s off 2 }

/-- R125, R126, R98: in INTEGER mode the 64-bit word itself is the result; in LEGACY mode the result is a binary64,
the word's own bits or, under ARITH, the word's integer rounded to binary64 (R108). -/
def Obligations.Decode64BitIntegers : Prop :=
  ∀ (bo : ByteOrder) (wo : WordOrder) (off : Nat) (s : State),
    let w := read64 s wo bo off
    (s.ctrl.getLsbD 2 = true →
      exec (.decI64 bo wo off) s = .next { s with res := w, resType := .int, status := shortStatus s off 4 } ∧
      exec (.decU64 bo wo off) s = .next { s with res := w, resType := .uint, status := shortStatus s off 4 }) ∧
    (s.ctrl.getLsbD 2 = false → s.cfg.legacy64 = .reinterpret →
      exec (.decI64 bo wo off) s = .next { s with res := w, resType := .f64, status := shortStatus s off 4 } ∧
      exec (.decU64 bo wo off) s = .next { s with res := w, resType := .f64, status := shortStatus s off 4 }) ∧
    (s.ctrl.getLsbD 2 = false → s.cfg.legacy64 = .arith →
      exec (.decI64 bo wo off) s =
        .next { s with res := rne64 w.toInt, resType := .f64, status := shortStatus s off 4 } ∧
      exec (.decU64 bo wo off) s =
        .next { s with res := rne64 w.toNat, resType := .f64, status := shortStatus s off 4 })

/-- R127, R101: DEC.F32 gives the binary64 datum of exactly the binary32's value, signs of zeros and infinities kept,
and some NaN for a NaN. A binary32 smallest subnormal is 2^925 binary64 ones.
The draw counter is the model's own (notes/assumptions/1.md). -/
def Obligations.DecodeFloat32IsExact : Prop :=
  ∀ (bo : ByteOrder) (wo : WordOrder) (off : Nat) (s : State),
    ∃ v : BitVec 64,
      exec (.decF32 bo wo off) s = .next { s with
        res := v, resType := .f64, status := shortStatus s off 2, draws := s.draws + 1 } ∧
      match binary32.decode (read32 s wo bo off).toNat with
      | .nan => binary64.decode v.toNat = .nan
      | .inf neg => binary64.decode v.toNat = .inf neg
      | .fin neg m => binary64.decode v.toNat = .fin neg (m * 2 ^ 925)

/-- R128: DEC.F64 passes every 64-bit pattern through. -/
def Obligations.DecodeFloat64PassesThrough : Prop :=
  ∀ (bo : ByteOrder) (wo : WordOrder) (off : Nat) (s : State),
    exec (.decF64 bo wo off) s = .next { s with
      res := read64 s wo bo off, resType := .f64, status := shortStatus s off 4 }

/-- R129: DEC.BOOL tests unit 0, whatever OFFSET, BO and WO. -/
def Obligations.DecodeBoolReadsUnitZero : Prop :=
  ∀ (bo : ByteOrder) (wo : WordOrder) (off : Nat) (s : State),
    exec (.decBool bo wo off) s = .next { s with
      res := if unitRead s 0 = 0 then 0 else 1, resType := .bool,
      status := if s.rawLen.toNat = 0 then 0x2#4 else 0x0#4 }

/-- R130, R150: DEC.STR and ENC.STR copy `n` units to `OUT[0..n-1]`, missing ones as 0x0000, and leave the rest of
`OUT[]`; DEC.STR also leaves the length in `RES`. -/
def Obligations.StringsAreCopied : Prop :=
  ∀ (bo : ByteOrder) (wo : WordOrder) (off n : Nat) (s : State), 1 ≤ n → n ≤ 256 →
    ∃ out : Vector (BitVec 16) 256,
      exec (.decStr bo wo off n) s = .next { s with
        out := out, outLen := BitVec.ofNat 9 n, res := BitVec.ofNat 64 n, resType := .str,
        status := shortStatus s off n } ∧
      exec (.encStr bo wo off n) s = .next { s with
        out := out, outLen := BitVec.ofNat 9 n, status := shortStatus s off n } ∧
      ∀ j (_ : j < 256), out[j] = if j < n then unitRead s (off + j) else s.out[j]

/-! ### The encode commands -/

/-- R141, R142: ENC.I16 and ENC.U16 store the clamped and rounded integer in one unit. -/
def Obligations.Encode16BitKinds : Prop :=
  ∀ (bo : ByteOrder) (wo : WordOrder) (s : State),
    let i := clampRoundInt s.cfg.round s.val (-32768) 32767
    let u := clampRoundInt s.cfg.round s.val 0 65535
    (∃ t, exec (.encI16 bo wo) s = .next t ∧ Wrote1 s t (BitVec.ofInt 16 i.1) (satStatus i.2)) ∧
    (∃ t, exec (.encU16 bo wo) s = .next t ∧ Wrote1 s t (BitVec.ofInt 16 u.1) (satStatus u.2))

/-- R143, R144, R95, R97: ENC.I32 and ENC.U32 store the clamped and rounded integer in the two units that the same
orders read it from. -/
def Obligations.Encode32BitIntegers : Prop :=
  ∀ (bo : ByteOrder) (wo : WordOrder) (s : State),
    let i := clampRoundInt s.cfg.round s.val (-2147483648) 2147483647
    let u := clampRoundInt s.cfg.round s.val 0 4294967295
    (∃ t, exec (.encI32 bo wo) s = .next t ∧ Wrote2 s t wo bo (BitVec.ofInt 32 i.1) (satStatus i.2) s.draws) ∧
    (∃ t, exec (.encU32 bo wo) s = .next t ∧ Wrote2 s t wo bo (BitVec.ofInt 32 u.1) (satStatus u.2) s.draws)

/-- R145, R146, R108: in INTEGER mode and under ARITH the four units hold the clamped and rounded integer, and under
LEGACY/REINTERPRET the binary64 bits of its rounding. -/
def Obligations.Encode64BitIntegers : Prop :=
  ∀ (bo : ByteOrder) (wo : WordOrder) (s : State),
    let i := clampRoundInt s.cfg.round s.val (-9223372036854775808) 9223372036854775807
    let u := clampRoundInt s.cfg.round s.val 0 18446744073709551615
    (s.ctrl.getLsbD 2 = true ∨ s.cfg.legacy64 = .arith →
      (∃ t, exec (.encI64 bo wo) s = .next t ∧ Wrote4 s t wo bo (BitVec.ofInt 64 i.1) (satStatus i.2)) ∧
      (∃ t, exec (.encU64 bo wo) s = .next t ∧ Wrote4 s t wo bo (BitVec.ofInt 64 u.1) (satStatus u.2))) ∧
    (s.ctrl.getLsbD 2 = false ∧ s.cfg.legacy64 = .reinterpret →
      (∃ t, exec (.encI64 bo wo) s = .next t ∧ Wrote4 s t wo bo (rne64 i.1) (satStatus i.2)) ∧
      (∃ t, exec (.encU64 bo wo) s = .next t ∧ Wrote4 s t wo bo (rne64 u.1) (satStatus u.2)))

/-- R147, R102: ENC.F32 stores the binary32 the value rounds to, some NaN for a NaN, never with SAT.
The draw counter is the model's own (notes/assumptions/1.md). -/
def Obligations.EncodeFloat32Rounds : Prop :=
  ∀ (bo : ByteOrder) (wo : WordOrder) (s : State),
    ∃ t v, exec (.encF32 bo wo) s = .next t ∧ Wrote2 s t wo bo v 0 (s.draws + 1) ∧
      match binary64.decode s.val.toNat with
      | .nan => binary32.decode v.toNat = .nan
      | .inf neg => binary32.decode v.toNat = .inf neg
      | .fin neg m => v.toNat = (if neg then 2 ^ 31 else 0) + binary32.roundMag m (2 ^ 925)

/-- R148: ENC.F64 stores the 64 bits of `VAL`. -/
def Obligations.EncodeFloat64StoresVal : Prop :=
  ∀ (bo : ByteOrder) (wo : WordOrder) (s : State),
    ∃ t, exec (.encF64 bo wo) s = .next t ∧ Wrote4 s t wo bo s.val 0

/-- R149: ENC.BOOL stores 0 for the two zero patterns and 1 for every other, NaNs included. -/
def Obligations.EncodeBoolTestsForZero : Prop :=
  ∀ (bo : ByteOrder) (wo : WordOrder) (s : State),
    ∃ t, exec (.encBool bo wo) s = .next t ∧
      Wrote1 s t (if s.val = 0x0000000000000000#64 ∨ s.val = 0x8000000000000000#64 then 0 else 1) 0

/-! ### The scaler commands -/

/-- R160: the truth table of the clamp enable, in the order RESPECT_TAG_CLAMP, TAG_CLAMP, GLOBAL_CLAMP. -/
def Obligations.ClampEnableTruthTable : Prop :=
  ∀ s : State,
    (s.cfg.clampRule = .precedence →
      (clampOn s = true ↔ (s.ctrl.getLsbD 0, s.scfg.getLsbD 0, s.ctrl.getLsbD 1) ∈
        [(false, false, true), (false, true, true), (true, true, false), (true, true, true)])) ∧
    (s.cfg.clampRule = .disjunction →
      (clampOn s = true ↔ (s.ctrl.getLsbD 0, s.scfg.getLsbD 0, s.ctrl.getLsbD 1) ∈
        [(false, false, true), (false, true, true), (true, false, true), (true, true, false), (true, true, true)]))

/-- R161: a NaN value passes unchanged, whatever the bounds. For bounds that are no NaN a value below both becomes the
smaller bound and a value above both the larger, with SAT; a value between them is unchanged; and the result lies
between them, whichever is declared low. With a NaN bound, which R33 admits, every comparison with it is false: `a`
stands as the low bound and `b` as the high one, and the one that is no NaN still clamps. -/
def Obligations.EngineeringClampBounds : Prop :=
  ∀ e a b : BitVec 64,
    let r := clampEng e a b
    let r' := clampEng e b a
    (isNaN64 e = true → r = (e, false)) ∧
    (isNaN64 a = false → isNaN64 b = false →
      (lt64 e a = true → lt64 e b = true → r = (if lt64 b a then b else a, true)) ∧
      (lt64 a e = true → lt64 b e = true → r = (if lt64 b a then a else b, true)) ∧
      r'.2 = r.2) ∧
    (isNaN64 e = false → isNaN64 a = false → isNaN64 b = false →
      (lt64 r.1 a = false ∨ lt64 r.1 b = false) ∧ (lt64 a r.1 = false ∨ lt64 b r.1 = false) ∧
      (r.2 = true ↔ (lt64 e a = true ∧ lt64 e b = true) ∨ (lt64 a e = true ∧ lt64 b e = true)) ∧
      eq64 r.1 r'.1 = true) ∧
    (isNaN64 a = true ∨ isNaN64 b = true →
      (lt64 e a = true → r = (a, true)) ∧ (lt64 b e = true → r = (b, true)) ∧
      (lt64 e a = false → lt64 b e = false → r = (e, false))) ∧
    (r.2 = false → r.1 = e)

/-- R165, R162: TOENG on `VAL`: `engLow` on a degenerate scale, else the transform, clamped where the clamp is on.
The draw counter is the model's own (notes/assumptions/1.md). -/
def Obligations.ToEngScalesVal : Prop :=
  ∀ s : State,
    let nan := drawNaN64 s.draws
    let degen := eq64 s.rawHi s.rawLo
    let t := if degen then s.engLo else
      add64 nan s.engLo (mul64 nan (div64 nan (sub64 nan s.val s.rawLo) (sub64 nan s.rawHi s.rawLo))
        (sub64 nan s.engHi s.engLo))
    (clampOn s = false → exec .toEng s = .next { s with
      res := t, resType := .f64, status := flagStatus false degen false, draws := s.draws + 1 }) ∧
    (clampOn s = true → exec .toEng s = .next { s with
      res := (clampEng t s.engLo s.engHi).1, resType := .f64,
      status := flagStatus false degen (clampEng t s.engLo s.engHi).2, draws := s.draws + 1 })

/-- R162's first derived point: on a degenerate scale TOENG gives `engLow` with DEGEN alone, clamp on or off, whatever
`VAL` is. The draw counter is the model's own (notes/assumptions/1.md). -/
def Obligations.DegenerateScaleGivesEngLow : Prop :=
  ∀ s : State, eq64 s.rawHi s.rawLo = true →
    exec .toEng s = .next { s with
      res := s.engLo, resType := .f64, status := 0x4#4, draws := s.draws + 1 }

/-- R166, R163: TORAW on `VAL`: `rawLow` on equal engineering bounds, else the inverse transform, never clamped.
The draw counter is the model's own (notes/assumptions/1.md). -/
def Obligations.ToRawScalesVal : Prop :=
  ∀ s : State,
    let nan := drawNaN64 s.draws
    (eq64 s.engHi s.engLo = true → exec .toRaw s = .next { s with
      res := s.rawLo, resType := .f64, status := 0x4#4, draws := s.draws + 1 }) ∧
    (eq64 s.engHi s.engLo = false → exec .toRaw s = .next { s with
      res := add64 nan s.rawLo (mul64 nan (div64 nan (sub64 nan s.val s.engLo) (sub64 nan s.engHi s.engLo))
        (sub64 nan s.rawHi s.rawLo)),
      resType := .f64, status := 0x0#4, draws := s.draws + 1 })

/-- R167 to R174: each DECS leaves `toEng` of what its DEC computes, with SHORT from the DEC.
The draw counter is the model's own (notes/assumptions/1.md). -/
def Obligations.DecsScalesTheDecodedValue : Prop :=
  ∀ (bo : ByteOrder) (wo : WordOrder) (off : Nat) (s : State),
    ScalesDecode s (.decI16 bo wo off) (.decsI16 bo wo off) ∧ ScalesDecode s (.decU16 bo wo off) (.decsU16 bo wo off) ∧
    ScalesDecode s (.decI32 bo wo off) (.decsI32 bo wo off) ∧ ScalesDecode s (.decU32 bo wo off) (.decsU32 bo wo off) ∧
    ScalesDecode s (.decI64 bo wo off) (.decsI64 bo wo off) ∧ ScalesDecode s (.decU64 bo wo off) (.decsU64 bo wo off) ∧
    ScalesDecode s (.decF32 bo wo off) (.decsF32 bo wo off) ∧ ScalesDecode s (.decF64 bo wo off) (.decsF64 bo wo off)

/-- R175 to R182: each ENCS writes what its ENC writes for the inverse-scaled `VAL`, with DEGEN from the scaler.
The draw counter is the model's own (notes/assumptions/1.md). That ENCS.F64 stores a NaN of `RAW_LO` with its own bits
on equal engineering bounds is the model's choice (notes/assumptions/19.md). -/
def Obligations.EncsEncodesTheScaledValue : Prop :=
  ∀ (bo : ByteOrder) (wo : WordOrder) (s : State),
    ScalesEncode s (.encI16 bo wo) (.encsI16 bo wo) ∧ ScalesEncode s (.encU16 bo wo) (.encsU16 bo wo) ∧
    ScalesEncode s (.encI32 bo wo) (.encsI32 bo wo) ∧ ScalesEncode s (.encU32 bo wo) (.encsU32 bo wo) ∧
    ScalesEncode s (.encI64 bo wo) (.encsI64 bo wo) ∧ ScalesEncode s (.encU64 bo wo) (.encsU64 bo wo) ∧
    ScalesEncode s (.encF32 bo wo) (.encsF32 bo wo) ∧ ScalesEncode s (.encF64 bo wo) (.encsF64 bo wo)

/-! ### The shared datapath -/

/-- Assembly (R94) and disassembly (R95) are inverse, for two and four units, all orders and all parameters: the
spec's own inference from the two rules (R96). -/
def Obligations.AssemblyAndDisassemblyAreInverse : Prop :=
  ∀ (p : Params) (wo : WordOrder) (bo : ByteOrder) (k : Nat), k = 2 ∨ k = 4 →
    (∀ w, w < 2 ^ (16 * k) → assemble p wo bo (disassemble p wo bo k w) = w) ∧
    (∀ us : List (BitVec 16), us.length = k → disassemble p wo bo k (assemble p wo bo us) = us)

/-- R104: the integer chosen is nearest, and a tie goes where `P_ROUND` says. -/
def Obligations.IntegerRoundingIsNearest : Prop :=
  ∀ (mode : RoundMode) (x : Int) (u : Nat), 0 < u →
    let q := roundInt mode x u
    2 * |q * u - x| ≤ u ∧
    (2 * |q * u - x| = u →
      match mode with
      | .tiesEven => q % 2 = 0
      | .tiesAway => |x| < |q * u|
      | .tiesUp => x < q * u)

/-- R105: NaN gives 0 with SAT, infinities the bound, and SAT is set exactly for values outside the range. That a
finite value gives its rounding (R104) clamped to the range is the spec's own inference in R105, "clamping before
rounding and rounding before clamping give the same r". -/
def Obligations.ClampThenRoundToRange : Prop :=
  ∀ (mode : RoundMode) (d : BitVec 64) (lo hi : Int), lo ≤ hi →
    match binary64.decode d.toNat with
    | .nan => clampRoundInt mode d lo hi = (0, true)
    | .inf neg => clampRoundInt mode d lo hi = (if neg then lo else hi, true)
    | .fin neg m =>
      let x : Int := if neg then -(m : Int) else m
      (clampRoundInt mode d lo hi).1 = max lo (min hi (roundInt mode x (2 ^ 1074))) ∧
        ((clampRoundInt mode d lo hi).2 = true ↔ x < lo * 2 ^ 1074 ∨ hi * 2 ^ 1074 < x)

/-- R12, R100 (with the IEEE-754 meaning of roundTiesToEven, notes/assumptions/11.md): the rounding. Below the overflow
threshold the result is a finite pattern no other finite pattern is nearer than, and of two equally near ones the
even; from the threshold on it is infinity. The exact value is `n / d` smallest subnormals. And the four operations on
finite operands round the exact sum, difference, product or quotient once, with its sign; an exact zero sum is +0
unless both summands are negative, and a product's or quotient's sign is the exclusive or (notes/assumptions/11.md). -/
def Obligations.RoundingIsNearestTiesToEven : Prop :=
  (∀ (f : Format) (n d : Nat), f = binary32 ∨ f = binary64 → 0 < d →
    let r := f.roundMag n d
    let threshold := (2 ^ (f.fracBits + 2) - 1) * 2 ^ (2 ^ f.expBits - 4)
    (threshold * d ≤ n → r = f.infPattern) ∧
    (n < threshold * d → r < f.infPattern ∧
      ∀ q, q < f.infPattern →
        |(exactMag f r * d : Int) - n| ≤ |(exactMag f q * d : Int) - n| ∧
          (|(exactMag f r * d : Int) - n| = |(exactMag f q * d : Int) - n| → q = r ∨ r % 2 = 0))) ∧
  ∀ (nan a b : BitVec 64) (s t : Bool) (m k : Nat), datum64 a = .fin s m → datum64 b = .fin t k →
    let sum := exactValue s m + exactValue t k
    let diff := exactValue s m - exactValue t k
    add64 nan a b = rounded64 (decide (sum < 0) || (decide (sum = 0) && s && t)) sum.natAbs 1 ∧
    sub64 nan a b = rounded64 (decide (diff < 0) || (decide (diff = 0) && s && !t)) diff.natAbs 1 ∧
    mul64 nan a b = rounded64 (s ^^ t) (m * k) (2 ^ 1074) ∧
    (0 < k → div64 nan a b = rounded64 (s ^^ t) (m * 2 ^ 1074) k)

/-- R103: `RNE64` rounds every integer once, with its sign (2^1074 smallest subnormals make 1.0); up to a magnitude of
2^53 it is exact, and below 2^64 it is finite. -/
def Obligations.IntegersToTwoPow53AreExact : Prop :=
  ∀ x : Int, rne64 x = rounded64 (decide (x < 0)) (x.natAbs * 2 ^ 1074) 1 ∧
    (|x| ≤ 2 ^ 53 → binary64.decode (rne64 x).toNat = .fin (decide (x < 0)) (x.natAbs * 2 ^ 1074)) ∧
    (|x| < 2 ^ 64 → ∃ m, binary64.decode (rne64 x).toNat = .fin (decide (x < 0)) m)

/-- R100: ∞ − ∞, 0 × ∞, 0 ÷ 0, ∞ ÷ ∞ and a NaN operand give the draw; a finite non-zero value divided by 0 is an
infinity, every other operation with an infinite operand gives an infinity, or a zero where it divides. The signs are
the standard's (notes/assumptions/11.md). -/
def Obligations.ArithmeticSpecialValues : Prop :=
  ∀ (nan a b : BitVec 64) (s t : Bool) (m : Nat),
    (datum64 a = .inf s → datum64 b = .inf s → sub64 nan a b = nan ∧ datum64 (add64 nan a b) = .inf s) ∧
    (datum64 a = .inf s → datum64 b = .inf (!s) → add64 nan a b = nan ∧ datum64 (sub64 nan a b) = .inf s) ∧
    (datum64 a = .fin s 0 → datum64 b = .inf t → mul64 nan a b = nan ∧ mul64 nan b a = nan) ∧
    (datum64 a = .fin s 0 → datum64 b = .fin t 0 → div64 nan a b = nan) ∧
    (datum64 a = .inf s → datum64 b = .inf t → div64 nan a b = nan ∧ datum64 (mul64 nan a b) = .inf (s ^^ t)) ∧
    (isNaN64 a = true ∨ isNaN64 b = true →
      add64 nan a b = nan ∧ sub64 nan a b = nan ∧ mul64 nan a b = nan ∧ div64 nan a b = nan) ∧
    (datum64 a = .fin s m → 0 < m → datum64 b = .fin t 0 → datum64 (div64 nan a b) = .inf (s ^^ t)) ∧
    (datum64 a = .fin s m → datum64 b = .inf t →
      datum64 (add64 nan a b) = .inf t ∧ datum64 (add64 nan b a) = .inf t ∧ datum64 (sub64 nan a b) = .inf (!t) ∧
        datum64 (sub64 nan b a) = .inf t ∧ datum64 (div64 nan a b) = .fin (s ^^ t) 0 ∧
        datum64 (div64 nan b a) = .inf (s ^^ t)) ∧
    (datum64 a = .fin s m → 0 < m → datum64 b = .inf t →
      datum64 (mul64 nan a b) = .inf (s ^^ t) ∧ datum64 (mul64 nan b a) = .inf (s ^^ t))

/-- R13: a draw is a NaN, and every NaN pattern is the draw of some free bits, for both formats. How
the free input is drawn is the model's choice (notes/assumptions/1.md). -/
def Obligations.DrawsRangeOverTheNaNs : Prop :=
  (∀ n, isNaN64 (drawNaN64 n) = true ∧ isNaN32 (drawNaN32 n) = true) ∧
    (∀ b : BitVec 64, isNaN64 b = true → BitVec.ofNat 64 (binary64.nanOf b.toNat) = b) ∧
    (∀ b : BitVec 32, isNaN32 b = true → BitVec.ofNat 32 (binary32.nanOf b.toNat) = b)

/-! ### Round trips -/

/-- The round trips the source asks for (R96, R141), from R103, R105 and the DEC and ENC rules: an integer in range,
encoded, copied back and decoded in the same orders, is itself; for Int16, UInt16, Int32 and UInt32. -/
def Obligations.IntegersRoundTrip : Prop :=
  ∀ (bo : ByteOrder) (wo : WordOrder) (v : Int) (s : State), s.val = rne64 v →
    (-32768 ≤ v → v ≤ 32767 → ∃ t d, exec (.encI16 bo wo) s = .next t ∧
      exec (.decI16 bo wo 0) (copiedBack t) = .next d ∧ d.res.toInt = v ∧ d.resType = .int ∧ d.status = 0) ∧
    (0 ≤ v → v ≤ 65535 → ∃ t d, exec (.encU16 bo wo) s = .next t ∧
      exec (.decU16 bo wo 0) (copiedBack t) = .next d ∧ (d.res.toNat : Int) = v ∧ d.resType = .uint ∧ d.status = 0) ∧
    (-2147483648 ≤ v → v ≤ 2147483647 → ∃ t d, exec (.encI32 bo wo) s = .next t ∧
      exec (.decI32 bo wo 0) (copiedBack t) = .next d ∧ d.res.toInt = v ∧ d.resType = .int ∧ d.status = 0) ∧
    (0 ≤ v → v ≤ 4294967295 → ∃ t d, exec (.encU32 bo wo) s = .next t ∧
      exec (.decU32 bo wo 0) (copiedBack t) = .next d ∧ (d.res.toNat : Int) = v ∧ d.resType = .uint ∧ d.status = 0)

/-- R148: DEC.F64 of what ENC.F64 wrote, with the same orders, returns `VAL` exactly. -/
def Obligations.Float64RoundTrip : Prop :=
  ∀ (bo : ByteOrder) (wo : WordOrder) (s : State),
    ∃ t d, exec (.encF64 bo wo) s = .next t ∧ exec (.decF64 bo wo 0) (copiedBack t) = .next d ∧
      d.res = s.val ∧ d.resType = .f64 ∧ d.status = 0

/-- R147: a binary32 pattern that is no NaN, decoded and encoded again, is itself. -/
def Obligations.Float32RoundTrip : Prop :=
  ∀ (nan : BitVec 64) (nan' b : BitVec 32), isNaN32 b = false → cvt64to32 nan' (cvt32to64 nan b) = b

/-! ### The quiet comparisons -/

/-- R12: `==64` and `<64` compare exact values, so +0 equals −0; an infinity lies beyond every finite value; every
comparison with a NaN is false. -/
def Obligations.ComparisonsFollowExactValues : Prop :=
  ∀ (a b : BitVec 64) (s t : Bool) (m k : Nat),
    (datum64 a = .fin s m → datum64 b = .fin t k →
      (lt64 a b = true ↔ exactValue s m < exactValue t k) ∧ (eq64 a b = true ↔ exactValue s m = exactValue t k)) ∧
    (datum64 a = .inf s → datum64 b = .inf t →
      (lt64 a b = true ↔ s = true ∧ t = false) ∧ (eq64 a b = true ↔ s = t)) ∧
    (datum64 a = .inf s → datum64 b = .fin t k →
      (lt64 a b = true ↔ s = true) ∧ (lt64 b a = true ↔ s = false) ∧ eq64 a b = false ∧ eq64 b a = false) ∧
    (isNaN64 a = true ∨ isNaN64 b = true → lt64 a b = false ∧ eq64 a b = false) ∧
    eq64 0x0000000000000000#64 0x8000000000000000#64 = true ∧
    lt64 0x8000000000000000#64 0x0000000000000000#64 = false ∧
    (isNaN64 a = true ↔ 0x7FF0000000000000 < a.toNat % 2 ^ 63)
end

