-- ==== Sys2Proof/Laws/Encoding.lean ====
section
/-! SUPPORT. The fields of a command word as numbers (30_encoding.md R71): what the encoder puts into each and what the
decoder reads from it. -/

namespace Sys2Proof

/-- A field is a quotient and a remainder of the word's number (00_scope.md R8). -/
theorem wordField_eq (w : Word32) (lo n : Nat) : wordField w lo n = w.toNat / 2 ^ lo % 2 ^ n := by
  simp [wordField, BitVec.extractLsb'_toNat, Nat.shiftRight_eq_div_pow]

/-- Concatenation as arithmetic (00_scope.md R8). -/
theorem toNat_append_add {m n : Nat} (a : BitVec m) (b : BitVec n) :
    (a ++ b).toNat = a.toNat * 2 ^ n + b.toNat := by
  rw [BitVec.toNat_append, ← Nat.shiftLeft_add_eq_or_of_lt b.isLt, Nat.shiftLeft_eq]

theorem WordOrder.code_lt (wo : WordOrder) : wo.code < 4 := by cases wo <;> decide

theorem ByteOrder.code_lt (bo : ByteOrder) : bo.code < 2 := by cases bo <;> decide

@[simp] theorem WordOrder.ofCode_code (wo : WordOrder) : WordOrder.ofCode wo.code = wo := by cases wo <;> rfl

@[simp] theorem ByteOrder.ofCode_code (bo : ByteOrder) : ByteOrder.ofCode bo.code = bo := by cases bo <;> rfl

section Fields
variable (op kind : Nat) (bo : ByteOrder) (wo : WordOrder) (off slen : Nat)

/-- The number of a command word. -/
theorem commandWord_toNat : (commandWord op kind bo wo off slen).toNat =
    (slen % 256) * 2 ^ 24 + (off % 256) * 2 ^ 16 + wo.code * 2 ^ 9 + bo.code * 2 ^ 8 + (kind % 16) * 16 + op % 16 := by
  have h1 := wo.code_lt
  have h2 := bo.code_lt
  show BitVec.toNat (w := 8 + 8 + 5 + 2 + 1 + 4 + 4) _ = _
  simp only [commandWord, toNat_append_add, BitVec.toNat_ofNat]
  omega

theorem commandWord_op : wordField (commandWord op kind bo wo off slen) 0 4 = op % 16 := by
  rw [wordField_eq, commandWord_toNat]; omega

theorem commandWord_kind : wordField (commandWord op kind bo wo off slen) 4 4 = kind % 16 := by
  have := bo.code_lt
  rw [wordField_eq, commandWord_toNat]; omega

theorem commandWord_bo : wordField (commandWord op kind bo wo off slen) 8 1 = bo.code := by
  have := bo.code_lt
  rw [wordField_eq, commandWord_toNat]; omega

theorem commandWord_wo : wordField (commandWord op kind bo wo off slen) 9 2 = wo.code := by
  have := bo.code_lt
  have := wo.code_lt
  rw [wordField_eq, commandWord_toNat]; omega

theorem commandWord_rsv : wordField (commandWord op kind bo wo off slen) 11 5 = 0 := by
  have := bo.code_lt
  have := wo.code_lt
  rw [wordField_eq, commandWord_toNat]; omega

theorem commandWord_off : wordField (commandWord op kind bo wo off slen) 16 8 = off % 256 := by
  have := bo.code_lt
  have := wo.code_lt
  rw [wordField_eq, commandWord_toNat]; omega

theorem commandWord_slen : wordField (commandWord op kind bo wo off slen) 24 8 = slen % 256 := by
  have := bo.code_lt
  have := wo.code_lt
  rw [wordField_eq, commandWord_toNat]; omega

end Fields

end Sys2Proof
end

