-- ==== Sys2Proof/Laws/State.lean ====
section
/-! SUPPORT. One lemma per field per state update, each true by definition, so that no proof unfolds a record update. -/

namespace Sys2Proof.Machine

section Updates
variable (s : State)

@[simp] theorem State.setStatus_ctrl (a b c : Bool) : (s.setStatus a b c).ctrl = s.ctrl := rfl
@[simp] theorem State.setStatus_status (a b c : Bool) : (s.setStatus a b c).status = statusWord a b c := rfl
@[simp] theorem State.setStatus_cmd (a b c : Bool) : (s.setStatus a b c).cmd = s.cmd := rfl
@[simp] theorem State.setStatus_scfg (a b c : Bool) : (s.setStatus a b c).scfg = s.scfg := rfl
@[simp] theorem State.setStatus_rawLen (a b c : Bool) : (s.setStatus a b c).rawLen = s.rawLen := rfl
@[simp] theorem State.setStatus_outLen (a b c : Bool) : (s.setStatus a b c).outLen = s.outLen := rfl
@[simp] theorem State.setStatus_resType (a b c : Bool) : (s.setStatus a b c).resType = s.resType := rfl
@[simp] theorem State.setStatus_rawLo (a b c : Bool) : (s.setStatus a b c).rawLo = s.rawLo := rfl
@[simp] theorem State.setStatus_rawHi (a b c : Bool) : (s.setStatus a b c).rawHi = s.rawHi := rfl
@[simp] theorem State.setStatus_engLo (a b c : Bool) : (s.setStatus a b c).engLo = s.engLo := rfl
@[simp] theorem State.setStatus_engHi (a b c : Bool) : (s.setStatus a b c).engHi = s.engHi := rfl
@[simp] theorem State.setStatus_val (a b c : Bool) : (s.setStatus a b c).val = s.val := rfl
@[simp] theorem State.setStatus_res (a b c : Bool) : (s.setStatus a b c).res = s.res := rfl
@[simp] theorem State.setStatus_unit (a b c : Bool) : (s.setStatus a b c).unit = s.unit := rfl
@[simp] theorem State.setStatus_out (a b c : Bool) : (s.setStatus a b c).out = s.out := rfl
@[simp] theorem State.setStatus_inReset (a b c : Bool) : (s.setStatus a b c).inReset = s.inReset := rfl
@[simp] theorem State.setStatus_pending (a b c : Bool) : (s.setStatus a b c).pending = s.pending := rfl
@[simp] theorem State.setStatus_response (a b c : Bool) : (s.setStatus a b c).response = s.response := rfl
@[simp] theorem State.setStatus_draws (a b c : Bool) : (s.setStatus a b c).draws = s.draws := rfl
@[simp] theorem State.setStatus_cfg (a b c : Bool) : (s.setStatus a b c).cfg = s.cfg := rfl

@[simp] theorem State.setRes_ctrl (v : BitVec 64) (t : ResType) : (s.setRes v t).ctrl = s.ctrl := rfl
@[simp] theorem State.setRes_status (v : BitVec 64) (t : ResType) : (s.setRes v t).status = s.status := rfl
@[simp] theorem State.setRes_cmd (v : BitVec 64) (t : ResType) : (s.setRes v t).cmd = s.cmd := rfl
@[simp] theorem State.setRes_scfg (v : BitVec 64) (t : ResType) : (s.setRes v t).scfg = s.scfg := rfl
@[simp] theorem State.setRes_rawLen (v : BitVec 64) (t : ResType) : (s.setRes v t).rawLen = s.rawLen := rfl
@[simp] theorem State.setRes_outLen (v : BitVec 64) (t : ResType) : (s.setRes v t).outLen = s.outLen := rfl
@[simp] theorem State.setRes_resType (v : BitVec 64) (t : ResType) : (s.setRes v t).resType = t := rfl
@[simp] theorem State.setRes_rawLo (v : BitVec 64) (t : ResType) : (s.setRes v t).rawLo = s.rawLo := rfl
@[simp] theorem State.setRes_rawHi (v : BitVec 64) (t : ResType) : (s.setRes v t).rawHi = s.rawHi := rfl
@[simp] theorem State.setRes_engLo (v : BitVec 64) (t : ResType) : (s.setRes v t).engLo = s.engLo := rfl
@[simp] theorem State.setRes_engHi (v : BitVec 64) (t : ResType) : (s.setRes v t).engHi = s.engHi := rfl
@[simp] theorem State.setRes_val (v : BitVec 64) (t : ResType) : (s.setRes v t).val = s.val := rfl
@[simp] theorem State.setRes_res (v : BitVec 64) (t : ResType) : (s.setRes v t).res = v := rfl
@[simp] theorem State.setRes_unit (v : BitVec 64) (t : ResType) : (s.setRes v t).unit = s.unit := rfl
@[simp] theorem State.setRes_out (v : BitVec 64) (t : ResType) : (s.setRes v t).out = s.out := rfl
@[simp] theorem State.setRes_inReset (v : BitVec 64) (t : ResType) : (s.setRes v t).inReset = s.inReset := rfl
@[simp] theorem State.setRes_pending (v : BitVec 64) (t : ResType) : (s.setRes v t).pending = s.pending := rfl
@[simp] theorem State.setRes_response (v : BitVec 64) (t : ResType) : (s.setRes v t).response = s.response := rfl
@[simp] theorem State.setRes_draws (v : BitVec 64) (t : ResType) : (s.setRes v t).draws = s.draws := rfl
@[simp] theorem State.setRes_cfg (v : BitVec 64) (t : ResType) : (s.setRes v t).cfg = s.cfg := rfl

@[simp] theorem State.putUnits_ctrl (us : List (BitVec 16)) : (s.putUnits us).ctrl = s.ctrl := rfl
@[simp] theorem State.putUnits_status (us : List (BitVec 16)) : (s.putUnits us).status = s.status := rfl
@[simp] theorem State.putUnits_cmd (us : List (BitVec 16)) : (s.putUnits us).cmd = s.cmd := rfl
@[simp] theorem State.putUnits_scfg (us : List (BitVec 16)) : (s.putUnits us).scfg = s.scfg := rfl
@[simp] theorem State.putUnits_rawLen (us : List (BitVec 16)) : (s.putUnits us).rawLen = s.rawLen := rfl
@[simp] theorem State.putUnits_outLen (us : List (BitVec 16)) : (s.putUnits us).outLen = BitVec.ofNat 9 us.length := rfl
@[simp] theorem State.putUnits_resType (us : List (BitVec 16)) : (s.putUnits us).resType = s.resType := rfl
@[simp] theorem State.putUnits_rawLo (us : List (BitVec 16)) : (s.putUnits us).rawLo = s.rawLo := rfl
@[simp] theorem State.putUnits_rawHi (us : List (BitVec 16)) : (s.putUnits us).rawHi = s.rawHi := rfl
@[simp] theorem State.putUnits_engLo (us : List (BitVec 16)) : (s.putUnits us).engLo = s.engLo := rfl
@[simp] theorem State.putUnits_engHi (us : List (BitVec 16)) : (s.putUnits us).engHi = s.engHi := rfl
@[simp] theorem State.putUnits_val (us : List (BitVec 16)) : (s.putUnits us).val = s.val := rfl
@[simp] theorem State.putUnits_res (us : List (BitVec 16)) : (s.putUnits us).res = s.res := rfl
@[simp] theorem State.putUnits_unit (us : List (BitVec 16)) : (s.putUnits us).unit = s.unit := rfl
@[simp] theorem State.putUnits_out (us : List (BitVec 16)) : (s.putUnits us).out = writeUnits s.out 0 us := rfl
@[simp] theorem State.putUnits_inReset (us : List (BitVec 16)) : (s.putUnits us).inReset = s.inReset := rfl
@[simp] theorem State.putUnits_pending (us : List (BitVec 16)) : (s.putUnits us).pending = s.pending := rfl
@[simp] theorem State.putUnits_response (us : List (BitVec 16)) : (s.putUnits us).response = s.response := rfl
@[simp] theorem State.putUnits_draws (us : List (BitVec 16)) : (s.putUnits us).draws = s.draws := rfl
@[simp] theorem State.putUnits_cfg (us : List (BitVec 16)) : (s.putUnits us).cfg = s.cfg := rfl

@[simp] theorem State.drawn_ctrl : s.drawn.ctrl = s.ctrl := rfl
@[simp] theorem State.drawn_status : s.drawn.status = s.status := rfl
@[simp] theorem State.drawn_cmd : s.drawn.cmd = s.cmd := rfl
@[simp] theorem State.drawn_scfg : s.drawn.scfg = s.scfg := rfl
@[simp] theorem State.drawn_rawLen : s.drawn.rawLen = s.rawLen := rfl
@[simp] theorem State.drawn_outLen : s.drawn.outLen = s.outLen := rfl
@[simp] theorem State.drawn_resType : s.drawn.resType = s.resType := rfl
@[simp] theorem State.drawn_rawLo : s.drawn.rawLo = s.rawLo := rfl
@[simp] theorem State.drawn_rawHi : s.drawn.rawHi = s.rawHi := rfl
@[simp] theorem State.drawn_engLo : s.drawn.engLo = s.engLo := rfl
@[simp] theorem State.drawn_engHi : s.drawn.engHi = s.engHi := rfl
@[simp] theorem State.drawn_val : s.drawn.val = s.val := rfl
@[simp] theorem State.drawn_res : s.drawn.res = s.res := rfl
@[simp] theorem State.drawn_unit : s.drawn.unit = s.unit := rfl
@[simp] theorem State.drawn_out : s.drawn.out = s.out := rfl
@[simp] theorem State.drawn_inReset : s.drawn.inReset = s.inReset := rfl
@[simp] theorem State.drawn_pending : s.drawn.pending = s.pending := rfl
@[simp] theorem State.drawn_response : s.drawn.response = s.response := rfl
@[simp] theorem State.drawn_draws : s.drawn.draws = s.draws + 1 := rfl
@[simp] theorem State.drawn_cfg : s.drawn.cfg = s.cfg := rfl

@[simp] theorem State.respond_ctrl (r : Response) : (s.respond r).ctrl = s.ctrl := rfl
@[simp] theorem State.respond_status (r : Response) : (s.respond r).status = s.status := rfl
@[simp] theorem State.respond_cmd (r : Response) : (s.respond r).cmd = s.cmd := rfl
@[simp] theorem State.respond_scfg (r : Response) : (s.respond r).scfg = s.scfg := rfl
@[simp] theorem State.respond_rawLen (r : Response) : (s.respond r).rawLen = s.rawLen := rfl
@[simp] theorem State.respond_outLen (r : Response) : (s.respond r).outLen = s.outLen := rfl
@[simp] theorem State.respond_resType (r : Response) : (s.respond r).resType = s.resType := rfl
@[simp] theorem State.respond_rawLo (r : Response) : (s.respond r).rawLo = s.rawLo := rfl
@[simp] theorem State.respond_rawHi (r : Response) : (s.respond r).rawHi = s.rawHi := rfl
@[simp] theorem State.respond_engLo (r : Response) : (s.respond r).engLo = s.engLo := rfl
@[simp] theorem State.respond_engHi (r : Response) : (s.respond r).engHi = s.engHi := rfl
@[simp] theorem State.respond_val (r : Response) : (s.respond r).val = s.val := rfl
@[simp] theorem State.respond_res (r : Response) : (s.respond r).res = s.res := rfl
@[simp] theorem State.respond_unit (r : Response) : (s.respond r).unit = s.unit := rfl
@[simp] theorem State.respond_out (r : Response) : (s.respond r).out = s.out := rfl
@[simp] theorem State.respond_inReset (r : Response) : (s.respond r).inReset = s.inReset := rfl
@[simp] theorem State.respond_pending (r : Response) : (s.respond r).pending = s.pending := rfl
@[simp] theorem State.respond_response (r : Response) : (s.respond r).response = r := rfl
@[simp] theorem State.respond_draws (r : Response) : (s.respond r).draws = s.draws := rfl
@[simp] theorem State.respond_cfg (r : Response) : (s.respond r).cfg = s.cfg := rfl

@[simp] theorem State.raiseIll_ctrl : (raiseIll s).ctrl = s.ctrl := rfl
@[simp] theorem State.raiseIll_status : (raiseIll s).status = 0x1#4 := rfl
@[simp] theorem State.raiseIll_cmd : (raiseIll s).cmd = s.cmd := rfl
@[simp] theorem State.raiseIll_scfg : (raiseIll s).scfg = s.scfg := rfl
@[simp] theorem State.raiseIll_rawLen : (raiseIll s).rawLen = s.rawLen := rfl
@[simp] theorem State.raiseIll_outLen : (raiseIll s).outLen = s.outLen := rfl
@[simp] theorem State.raiseIll_resType : (raiseIll s).resType = s.resType := rfl
@[simp] theorem State.raiseIll_rawLo : (raiseIll s).rawLo = s.rawLo := rfl
@[simp] theorem State.raiseIll_rawHi : (raiseIll s).rawHi = s.rawHi := rfl
@[simp] theorem State.raiseIll_engLo : (raiseIll s).engLo = s.engLo := rfl
@[simp] theorem State.raiseIll_engHi : (raiseIll s).engHi = s.engHi := rfl
@[simp] theorem State.raiseIll_val : (raiseIll s).val = s.val := rfl
@[simp] theorem State.raiseIll_res : (raiseIll s).res = s.res := rfl
@[simp] theorem State.raiseIll_unit : (raiseIll s).unit = s.unit := rfl
@[simp] theorem State.raiseIll_out : (raiseIll s).out = s.out := rfl
@[simp] theorem State.raiseIll_inReset : (raiseIll s).inReset = s.inReset := rfl
@[simp] theorem State.raiseIll_pending : (raiseIll s).pending = s.pending := rfl
@[simp] theorem State.raiseIll_response : (raiseIll s).response = s.response := rfl
@[simp] theorem State.raiseIll_draws : (raiseIll s).draws = s.draws := rfl
@[simp] theorem State.raiseIll_cfg : (raiseIll s).cfg = s.cfg := rfl

@[simp] theorem State.putDecoded_ctrl (d : Decoded) : (s.putDecoded d).ctrl = s.ctrl := rfl
@[simp] theorem State.putDecoded_status (d : Decoded) : (s.putDecoded d).status = statusWord d.short false false := rfl
@[simp] theorem State.putDecoded_cmd (d : Decoded) : (s.putDecoded d).cmd = s.cmd := rfl
@[simp] theorem State.putDecoded_scfg (d : Decoded) : (s.putDecoded d).scfg = s.scfg := rfl
@[simp] theorem State.putDecoded_rawLen (d : Decoded) : (s.putDecoded d).rawLen = s.rawLen := rfl
@[simp] theorem State.putDecoded_outLen (d : Decoded) : (s.putDecoded d).outLen = s.outLen := rfl
@[simp] theorem State.putDecoded_resType (d : Decoded) : (s.putDecoded d).resType = d.type := rfl
@[simp] theorem State.putDecoded_rawLo (d : Decoded) : (s.putDecoded d).rawLo = s.rawLo := rfl
@[simp] theorem State.putDecoded_rawHi (d : Decoded) : (s.putDecoded d).rawHi = s.rawHi := rfl
@[simp] theorem State.putDecoded_engLo (d : Decoded) : (s.putDecoded d).engLo = s.engLo := rfl
@[simp] theorem State.putDecoded_engHi (d : Decoded) : (s.putDecoded d).engHi = s.engHi := rfl
@[simp] theorem State.putDecoded_val (d : Decoded) : (s.putDecoded d).val = s.val := rfl
@[simp] theorem State.putDecoded_res (d : Decoded) : (s.putDecoded d).res = d.res := rfl
@[simp] theorem State.putDecoded_unit (d : Decoded) : (s.putDecoded d).unit = s.unit := rfl
@[simp] theorem State.putDecoded_out (d : Decoded) : (s.putDecoded d).out = s.out := rfl
@[simp] theorem State.putDecoded_inReset (d : Decoded) : (s.putDecoded d).inReset = s.inReset := rfl
@[simp] theorem State.putDecoded_pending (d : Decoded) : (s.putDecoded d).pending = s.pending := rfl
@[simp] theorem State.putDecoded_response (d : Decoded) : (s.putDecoded d).response = s.response := rfl
@[simp] theorem State.putDecoded_draws (d : Decoded) : (s.putDecoded d).draws = s.draws := rfl
@[simp] theorem State.putDecoded_cfg (d : Decoded) : (s.putDecoded d).cfg = s.cfg := rfl

@[simp] theorem State.putEncoded_ctrl (e : Encoded) (g : Bool) : (s.putEncoded e g).ctrl = s.ctrl := rfl
@[simp] theorem State.putEncoded_status (e : Encoded) (g : Bool) : (s.putEncoded e g).status = statusWord false g e.sat := rfl
@[simp] theorem State.putEncoded_cmd (e : Encoded) (g : Bool) : (s.putEncoded e g).cmd = s.cmd := rfl
@[simp] theorem State.putEncoded_scfg (e : Encoded) (g : Bool) : (s.putEncoded e g).scfg = s.scfg := rfl
@[simp] theorem State.putEncoded_rawLen (e : Encoded) (g : Bool) : (s.putEncoded e g).rawLen = s.rawLen := rfl
@[simp] theorem State.putEncoded_outLen (e : Encoded) (g : Bool) : (s.putEncoded e g).outLen = BitVec.ofNat 9 e.units.length := rfl
@[simp] theorem State.putEncoded_resType (e : Encoded) (g : Bool) : (s.putEncoded e g).resType = s.resType := rfl
@[simp] theorem State.putEncoded_rawLo (e : Encoded) (g : Bool) : (s.putEncoded e g).rawLo = s.rawLo := rfl
@[simp] theorem State.putEncoded_rawHi (e : Encoded) (g : Bool) : (s.putEncoded e g).rawHi = s.rawHi := rfl
@[simp] theorem State.putEncoded_engLo (e : Encoded) (g : Bool) : (s.putEncoded e g).engLo = s.engLo := rfl
@[simp] theorem State.putEncoded_engHi (e : Encoded) (g : Bool) : (s.putEncoded e g).engHi = s.engHi := rfl
@[simp] theorem State.putEncoded_val (e : Encoded) (g : Bool) : (s.putEncoded e g).val = s.val := rfl
@[simp] theorem State.putEncoded_res (e : Encoded) (g : Bool) : (s.putEncoded e g).res = s.res := rfl
@[simp] theorem State.putEncoded_unit (e : Encoded) (g : Bool) : (s.putEncoded e g).unit = s.unit := rfl
@[simp] theorem State.putEncoded_out (e : Encoded) (g : Bool) : (s.putEncoded e g).out = writeUnits s.out 0 e.units := rfl
@[simp] theorem State.putEncoded_inReset (e : Encoded) (g : Bool) : (s.putEncoded e g).inReset = s.inReset := rfl
@[simp] theorem State.putEncoded_pending (e : Encoded) (g : Bool) : (s.putEncoded e g).pending = s.pending := rfl
@[simp] theorem State.putEncoded_response (e : Encoded) (g : Bool) : (s.putEncoded e g).response = s.response := rfl
@[simp] theorem State.putEncoded_draws (e : Encoded) (g : Bool) : (s.putEncoded e g).draws = s.draws := rfl
@[simp] theorem State.putEncoded_cfg (e : Encoded) (g : Bool) : (s.putEncoded e g).cfg = s.cfg := rfl

@[simp] theorem State.putScaled_ctrl (b : Bool) (e : Scaled) : (s.putScaled b e).ctrl = s.ctrl := rfl
@[simp] theorem State.putScaled_status (b : Bool) (e : Scaled) : (s.putScaled b e).status = statusWord b e.degen e.sat := rfl
@[simp] theorem State.putScaled_cmd (b : Bool) (e : Scaled) : (s.putScaled b e).cmd = s.cmd := rfl
@[simp] theorem State.putScaled_scfg (b : Bool) (e : Scaled) : (s.putScaled b e).scfg = s.scfg := rfl
@[simp] theorem State.putScaled_rawLen (b : Bool) (e : Scaled) : (s.putScaled b e).rawLen = s.rawLen := rfl
@[simp] theorem State.putScaled_outLen (b : Bool) (e : Scaled) : (s.putScaled b e).outLen = s.outLen := rfl
@[simp] theorem State.putScaled_resType (b : Bool) (e : Scaled) : (s.putScaled b e).resType = .f64 := rfl
@[simp] theorem State.putScaled_rawLo (b : Bool) (e : Scaled) : (s.putScaled b e).rawLo = s.rawLo := rfl
@[simp] theorem State.putScaled_rawHi (b : Bool) (e : Scaled) : (s.putScaled b e).rawHi = s.rawHi := rfl
@[simp] theorem State.putScaled_engLo (b : Bool) (e : Scaled) : (s.putScaled b e).engLo = s.engLo := rfl
@[simp] theorem State.putScaled_engHi (b : Bool) (e : Scaled) : (s.putScaled b e).engHi = s.engHi := rfl
@[simp] theorem State.putScaled_val (b : Bool) (e : Scaled) : (s.putScaled b e).val = s.val := rfl
@[simp] theorem State.putScaled_res (b : Bool) (e : Scaled) : (s.putScaled b e).res = e.value := rfl
@[simp] theorem State.putScaled_unit (b : Bool) (e : Scaled) : (s.putScaled b e).unit = s.unit := rfl
@[simp] theorem State.putScaled_out (b : Bool) (e : Scaled) : (s.putScaled b e).out = s.out := rfl
@[simp] theorem State.putScaled_inReset (b : Bool) (e : Scaled) : (s.putScaled b e).inReset = s.inReset := rfl
@[simp] theorem State.putScaled_pending (b : Bool) (e : Scaled) : (s.putScaled b e).pending = s.pending := rfl
@[simp] theorem State.putScaled_response (b : Bool) (e : Scaled) : (s.putScaled b e).response = s.response := rfl
@[simp] theorem State.putScaled_draws (b : Bool) (e : Scaled) : (s.putScaled b e).draws = s.draws + 1 := rfl
@[simp] theorem State.putScaled_cfg (b : Bool) (e : Scaled) : (s.putScaled b e).cfg = s.cfg := rfl

end Updates

end Sys2Proof.Machine
end

