-- ==== Sys2Proof/Laws/Ops.lean ====
section
/-! SUPPORT. What each shared operation does, said once: unit fetch, output units, register halves, the register map,
and the shape of a status word. Proofs about commands cite these and do not unfold the operations. -/

namespace Sys2Proof.Machine

open Sys2Proof.Config

/-- A unit written by `writeUnits` at `i ..` holds the list's element, every other unit its old value. -/
theorem writeUnits_getElem (us : List (BitVec 16)) (out : Vector (BitVec 16) 256) (i j : Nat) (hj : j < 256) :
    (writeUnits out i us)[j] = if i ≤ j then us[j - i]?.getD out[j] else out[j] := by
  induction us generalizing out i with
  | nil => simp [writeUnits]
  | cons u us ih =>
    rw [writeUnits, ih, Vector.getElem_setIfInBounds hj]
    rcases Nat.lt_trichotomy i j with h | h | h
    · have : j - i = j - (i + 1) + 1 := by omega
      simp [h, Nat.le_of_lt h, Nat.ne_of_lt h, this]
    · subst h; simp
    · simp [Nat.not_le.mpr h, Nat.not_le.mpr (Nat.lt_succ_of_lt h), Nat.ne_of_gt h]

/-- `OUT[j]` after `putUnits` (40_datapath.md R106). -/
theorem putUnits_getElem (s : State) (us : List (BitVec 16)) (j : Nat) (hj : j < 256) :
    (s.putUnits us).out[j] = us[j]?.getD s.out[j] := by
  simpa using writeUnits_getElem us s.out 0 j hj

/-- Writing the same units twice is writing them once. -/
theorem writeUnits_idem (us : List (BitVec 16)) (out : Vector (BitVec 16) 256) (i : Nat) :
    writeUnits (writeUnits out i us) i us = writeUnits out i us := by
  ext j hj
  rw [writeUnits_getElem _ _ _ _ hj, writeUnits_getElem _ _ _ _ hj]
  split
  · cases us[j - i]? <;> rfl
  · rfl

/-- A unit in the window and below `RAW_LEN` reads its register, every other unit reads 0 (40_datapath.md R90). -/
theorem unitAt_eq (s : State) (i : Nat) :
    unitAt s i = if h : i < 256 then (if i < s.rawLen.toNat then s.unit[i] else 0) else 0 := by
  unfold unitAt unitMissing
  by_cases h : i < 256 <;> by_cases h' : i < s.rawLen.toNat
  · simp [h, h']
  · simp [h, h', Nat.le_of_not_lt h']
  · simp [h]
  · simp [h]

@[simp] theorem fetchUnits_length (s : State) (o k : Nat) : (fetchUnits s o k).length = k := by simp [fetchUnits]

/-- The j-th fetched unit (40_datapath.md R90). -/
theorem fetchUnits_getElem? (s : State) (o k j : Nat) :
    (fetchUnits s o k)[j]? = if j < k then some (unitAt s (o + j)) else none := by
  unfold fetchUnits
  by_cases h : j < k <;> simp [h]

theorem fetchUnits_two (s : State) (o : Nat) : fetchUnits s o 2 = [unitAt s o, unitAt s (o + 1)] := rfl

theorem fetchUnits_four (s : State) (o : Nat) :
    fetchUnits s o 4 = [unitAt s o, unitAt s (o + 1), unitAt s (o + 2), unitAt s (o + 3)] := rfl

/-- The equation R90 gives for `short`: a fetch of at least one unit is short when it ends past `RAW_LEN`. -/
theorem fetchShort_eq (s : State) (o k : Nat) (hk : 0 < k) : fetchShort s o k = decide (s.rawLen.toNat < o + k) := by
  rw [Bool.eq_iff_iff]
  simp only [fetchShort, unitMissing, List.any_eq_true, List.mem_range, decide_eq_true_eq]
  constructor
  · rintro ⟨j, hj, h⟩; omega
  · intro h; exact ⟨k - 1, by omega, by omega⟩

/-! The flags of a status word (40_datapath.md R107), in simp's normal form of a bit at a literal index. -/

@[simp] theorem statusWord_ill (a b c : Bool) : (statusWord a b c)[0] = false := by cases a <;> cases b <;> cases c <;> rfl
@[simp] theorem statusWord_short (a b c : Bool) : (statusWord a b c)[1] = a := by cases a <;> cases b <;> cases c <;> rfl
@[simp] theorem statusWord_degen (a b c : Bool) : (statusWord a b c)[2] = b := by cases a <;> cases b <;> cases c <;> rfl
@[simp] theorem statusWord_sat (a b c : Bool) : (statusWord a b c)[3] = c := by cases a <;> cases b <;> cases c <;> rfl

/-- The bits of a concatenation of two 32-bit halves. -/
theorem getLsbD_halves (a b : BitVec 32) (i : Nat) :
    BitVec.getLsbD (w := 64) (a ++ b) i = if i < 32 then b.getLsbD i else a.getLsbD (i - 32) := by
  show BitVec.getLsbD (w := 32 + 32) (a ++ b) i = _
  rw [BitVec.getLsbD_append]

/-- The half just written reads back (20_memory.md R55). -/
theorem getHalf_setHalf_same (h : Half) (v : BitVec 64) (d : BitVec 32) : getHalf h (setHalf h v d) = d := by
  cases h <;> ext i hi <;> simp [getHalf, setHalf, getLsbD_halves, hi]

/-- The other half keeps its value (20_memory.md R55). -/
theorem getHalf_setHalf_other (h k : Half) (hk : k ≠ h) (v : BitVec 64) (d : BitVec 32) :
    getHalf k (setHalf h v d) = getHalf k v := by
  cases h <;> cases k <;> first | exact absurd rfl hk | (ext i hi; simp [getHalf, setHalf, getLsbD_halves, hi])

end Sys2Proof.Machine
end

