-- ==== Sys2Proof/Laws/Bus.lean ====
section
/-! SUPPORT. What one step can do, said once: the cases of serving a host event and of a write to `CMD`. -/

namespace Sys2Proof.Machine

theorem step_idle {s : State} (h : s.pending = []) : step s = .next s := by simp [step, serveNext, h]

theorem step_serve {s : State} {e : HostEvent} {rest : List HostEvent} (h : s.pending = e :: rest) :
    step s = serve e { s with pending := rest } := by simp [step, serveNext, h]

/-- A step waits or serves the host's next event. -/
theorem step_cases (s : State) :
    (s.pending = [] ∧ step s = .next s) ∨
      ∃ e rest, s.pending = e :: rest ∧ step s = serve e { s with pending := rest } := by
  rcases h : s.pending with _ | ⟨e, rest⟩
  · exact .inl ⟨rfl, step_idle h⟩
  · exact .inr ⟨e, rest, rfl, step_serve h⟩

/-- What executing a command word answers: the decoded command's answer, or ILL (60_exceptions.md R201). -/
theorem runCommand_cases (w : BitVec 32) (s : State) :
    (∃ i, decode w = .ok i ∧ runCommand w s = exec i s) ∨
      (∃ e, decode w = .error e ∧ runCommand w s = .next (raiseIll s)) := by
  rcases h : decode w with e | i
  · exact .inr ⟨e, rfl, by simp [runCommand, h]⟩
  · exact .inl ⟨i, rfl, by simp [runCommand, h]⟩

/-- Everything serving a read can do. -/
theorem serve_read_cases (off width : Nat) (s : State) :
    (inWindow off = false ∧ serve (.read off width) s = .fault .outsideWindow) ∨
      (inWindow off = true ∧ accessOk off width = true ∧ s.inReset = false ∧
        serve (.read off width) s = .next (s.respond (.data (busRead off s)))) ∨
      (inWindow off = true ∧ (accessOk off width = false ∨ s.inReset = true) ∧
        serve (.read off width) s = .next (raiseBusErr true s)) := by
  unfold serve
  cases h : inWindow off <;> cases h' : accessOk off width <;> cases s.inReset <;> simp [h, h']

/-- Everything serving a write can do. -/
theorem serve_write_cases (off width : Nat) (v : BitVec 32) (s : State) :
    (inWindow off = false ∧ serve (.write off width v) s = .fault .outsideWindow) ∨
      (inWindow off = true ∧ accessOk off width = true ∧ s.inReset = false ∧
        serve (.write off width v) s = busWrite off v (s.respond .done)) ∨
      (inWindow off = true ∧ (accessOk off width = false ∨ s.inReset = true) ∧
        serve (.write off width v) s = .next (raiseBusErr false s)) := by
  unfold serve
  cases h : inWindow off <;> cases h' : accessOk off width <;> cases s.inReset <;> simp [h, h']

/-- A write reaches `CMD` and runs its word, or stores into another slot. -/
theorem busWrite_cases (off : Nat) (v : BitVec 32) (s : State) :
    (regAt off = .cmd ∧ busWrite off v s = runCommand v { s with cmd := v }) ∨
      (regAt off ≠ .cmd ∧ busWrite off v s = .next (writeReg (regAt off) v s)) := by
  unfold busWrite
  by_cases h : regAt off = .cmd
  · exact .inl ⟨h, by simp [h, writeReg]⟩
  · exact .inr ⟨h, by simp [h]⟩

/-- BUSERR changes the bus response and nothing else (60_exceptions.md R202). -/
theorem raiseBusErr_eq (isRead : Bool) (s : State) : ∃ r, raiseBusErr isRead s = s.respond r := ⟨_, rfl⟩

/-- What a change of the reset line leaves (70_reset_and_hazards.md R220): the registers as they are, or all at their
reset values. -/
theorem setResetLine_cases (asserted : Bool) (s : State) :
    (asserted = true ∧ setResetLine asserted s = { s with inReset := true }) ∨
      (asserted = false ∧ s.inReset = true ∧
        setResetLine asserted s = { s.resetRegisters with inReset := false }) ∨
      (asserted = false ∧ s.inReset = false ∧ setResetLine asserted s = s) := by
  cases asserted <;> cases h : s.inReset <;> simp [setResetLine, h]

/-- The next step after `withFetchWord` runs the word. -/
theorem step_withFetchWord (s : State) (w : Nat) (i : Instr) (h : decode (BitVec.ofNat 32 (w % 2 ^ 32)) = .ok i) :
    step (s.withFetchWord 32 w) =
      exec i { s with inReset := false, response := .done, cmd := BitVec.ofNat 32 (w % 2 ^ 32) } := by
  show runCommand _ _ = _
  simp only [runCommand, h]
  rfl

end Sys2Proof.Machine
end

