-- ==== Sys2Proof/Laws/Ieee.lean ====
section
/-! SUPPORT. The two formats as numbers, what a pattern's sign does to its datum, that a value a finite pattern holds rounds
to that pattern, and the order of `<64` (00_scope.md R12, 40_datapath.md R100 to R103). -/

namespace Sys2Proof.Machine

theorem binary64_one : binary64.one = 2 ^ 1074 := congrArg (2 ^ ·) (by decide : 2 ^ (binary64.expBits - 1) - 2 + binary64.fracBits = 1074)

theorem binary32_one : binary32.one = 2 ^ 149 := rfl

theorem binary64_signWeight : binary64.signWeight = 2 ^ 63 := rfl

theorem binary32_signWeight : binary32.signWeight = 2 ^ 31 := rfl

theorem binary64_infPattern : binary64.infPattern = 0x7FF0000000000000 := by decide

theorem binary32_infPattern : binary32.infPattern = 0x7F800000 := by decide

/-- The magnitude of a finite pattern whose sign bit is clear, in smallest subnormals. -/
def Format.magOf (f : Format) (q : Nat) : Nat :=
  if q / 2 ^ f.fracBits = 0 then q else (2 ^ f.fracBits + q % 2 ^ f.fracBits) * 2 ^ (q / 2 ^ f.fracBits - 1)

/-- Below the pattern of infinity every pattern is finite. -/
theorem decode_finite (f : Format) (neg : Bool) (q : Nat) (h : q < f.infPattern) :
    f.decode (f.withSign neg q) = .fin neg (f.magOf q) := by
  have hp : 0 < 2 ^ f.fracBits := Nat.pow_pos (by decide)
  have hE : 0 < 2 ^ f.expBits := Nat.pow_pos (by decide)
  have hq : q / 2 ^ f.fracBits < 2 ^ f.expBits - 1 := (Nat.div_lt_iff_lt_mul hp).2 h
  have hw : f.signWeight = 2 ^ f.expBits * 2 ^ f.fracBits := Nat.pow_add ..
  have hlt : q < f.signWeight := by
    rw [hw]; exact lt_of_lt_of_le h (Nat.mul_le_mul_right _ (Nat.sub_le _ _))
  have hsign : f.withSign neg q / f.signWeight % 2 = if neg then 1 else 0 := by
    cases neg
    · simp [Format.withSign, Nat.div_eq_of_lt hlt]
    · have : 0 < f.signWeight := by omega
      simp [Format.withSign, Nat.add_div_left _ this, Nat.div_eq_of_lt hlt]
  have hdiv : f.withSign neg q / 2 ^ f.fracBits % 2 ^ f.expBits = q / 2 ^ f.fracBits := by
    cases neg
    · simpa [Format.withSign] using Nat.mod_eq_of_lt (by omega)
    · simp only [Format.withSign, if_true, hw]
      rw [Nat.add_comm, Nat.add_mul_div_right _ _ hp, Nat.add_mod_right]
      exact Nat.mod_eq_of_lt (by omega)
  have hmod : f.withSign neg q % 2 ^ f.fracBits = q % 2 ^ f.fracBits := by
    cases neg <;> simp [Format.withSign, hw]
  have hz : q / 2 ^ f.fracBits = 0 → q % 2 ^ f.fracBits = q := fun h0 => by
    have := Nat.div_add_mod q (2 ^ f.fracBits)
    rw [h0] at this; omega
  unfold Format.decode Format.magOf
  simp only [hsign, hdiv, hmod]
  rw [if_neg (by omega)]
  by_cases h0 : q / 2 ^ f.fracBits = 0
  · cases neg <;> simp [h0, hz h0]
  · cases neg <;> simp [h0]

/-- An exact quotient is not rounded. -/
theorem roundDivEven_mul (k d : Nat) (hd : 0 < d) : roundDivEven (k * d) d = k := by
  simp [roundDivEven, Nat.mul_div_cancel _ hd, hd]

/-- A magnitude some finite pattern holds rounds to that pattern (40_datapath.md R101 and R103 rest on this). -/
theorem roundMag_exact (f : Format) (q d : Nat) (hd : 0 < d) (h : q < f.infPattern) :
    f.roundMag (f.magOf q * d) d = q := by
  have hp : 0 < 2 ^ f.fracBits := Nat.pow_pos (by decide)
  have hdm := Nat.div_add_mod q (2 ^ f.fracBits)
  have hr := Nat.mod_lt q hp
  unfold Format.roundMag
  rw [Nat.mul_div_cancel _ hd]
  unfold Format.magOf
  by_cases h0 : q / 2 ^ f.fracBits = 0
  · have hq : q < 2 ^ f.fracBits := by rw [h0] at hdm; omega
    have hs : q.log2 - f.fracBits = 0 := by
      by_cases hz : q = 0
      · simp [hz, Nat.log2_zero]
      · have := (Nat.log2_lt hz).2 hq; omega
    simp only [h0, if_true, hs, Nat.pow_zero, Nat.mul_one, Nat.zero_mul, Nat.zero_add, roundDivEven_mul _ _ hd]
    exact Nat.min_eq_left (Nat.le_of_lt h)
  · obtain ⟨e, he⟩ : ∃ e, q / 2 ^ f.fracBits = e + 1 := Nat.exists_eq_succ_of_ne_zero h0
    have hlog : ((2 ^ f.fracBits + q % 2 ^ f.fracBits) * 2 ^ e).log2 = f.fracBits + e := by
      rw [Nat.log2_eq_iff (by positivity)]
      constructor
      · rw [Nat.pow_add]; exact Nat.mul_le_mul_right _ (by omega)
      · rw [show f.fracBits + e + 1 = (f.fracBits + 1) + e by omega, Nat.pow_add]
        exact Nat.mul_lt_mul_of_pos_right (by rw [Nat.pow_succ]; omega) (Nat.pow_pos (by decide))
    have hsh : f.fracBits + e - f.fracBits = e := by omega
    rw [if_neg h0, he, Nat.add_sub_cancel, hlog, hsh]
    dsimp only
    rw [Nat.mul_assoc, Nat.mul_comm (2 ^ e) d, roundDivEven_mul _ _ (Nat.mul_pos hd (Nat.pow_pos (by decide)))]
    rw [he] at hdm
    have : e * 2 ^ f.fracBits + (2 ^ f.fracBits + q % 2 ^ f.fracBits) = q := by
      rw [Nat.mul_comm] ; rw [Nat.mul_add] at hdm; omega
    rw [this]
    exact Nat.min_eq_left (Nat.le_of_lt h)

/-- Inverting the sign bit negates a datum and leaves a NaN one (IEEE-754 negate). -/
theorem datum64_neg64 (b : BitVec 64) :
    datum64 (neg64 b) =
      match datum64 b with
      | .nan => .nan
      | .inf s => .inf (!s)
      | .fin s m => .fin (!s) m := by
  have hx : (neg64 b).toNat = b.toNat ^^^ 2 ^ 63 := by simp [neg64]
  have hlow : (neg64 b).toNat % 2 ^ 63 = b.toNat % 2 ^ 63 := by
    rw [hx]
    refine Nat.eq_of_testBit_eq fun i => ?_
    simp only [Nat.testBit_mod_two_pow, Nat.testBit_xor, Nat.testBit_two_pow]
    by_cases h : i < 63 <;> simp [h, show i < 63 → ¬ (63 = i) from by omega]
  have hsign : ((neg64 b).toNat / 2 ^ 63 % 2 == 1) = !(b.toNat / 2 ^ 63 % 2 == 1) := by
    have := Nat.testBit_xor b.toNat (2 ^ 63) 63
    rw [← hx] at this
    simp only [Nat.testBit_eq_decide_div_mod_eq, Nat.reducePow, Nat.reduceDiv, Nat.reduceMod, decide_true,
      Bool.xor_true] at this
    simpa only [Nat.reducePow, Nat.beq_eq_true_eq, beq_eq_decide] using this
  have hex : (neg64 b).toNat / 2 ^ 52 % 2 ^ 11 = b.toNat / 2 ^ 52 % 2 ^ 11 := by omega
  have hfr : (neg64 b).toNat % 2 ^ 52 = b.toNat % 2 ^ 52 := by omega
  simp only [datum64, Format.decode, binary64_signWeight, show binary64.fracBits = 52 from rfl,
    show binary64.expBits = 11 from rfl, hsign, hex, hfr]
  split
  · split <;> rfl
  · split <;> rfl

@[simp] theorem datum64_inf64 (s : Bool) : datum64 (inf64 s) = .inf s := by cases s <;> decide +kernel

@[simp] theorem datum64_round64_zero (s : Bool) : datum64 (round64 s 0 1) = .fin s 0 := by cases s <;> decide +kernel

/-! The quiet comparison `<64` orders the data that are no NaN (00_scope.md R12). -/

/-- A comparison with a NaN is false (00_scope.md R12). -/
theorem lt64_nan (a b : BitVec 64) (h : isNaN64 a = true) : lt64 a b = false ∧ lt64 b a = false := by
  have h : datum64 a = .nan := by simpa [isNaN64] using h
  unfold lt64
  rw [h]
  cases datum64 b <;> simp

theorem lt64_irrefl (a : BitVec 64) : lt64 a a = false := by
  unfold lt64
  cases datum64 a <;> simp

theorem lt64_asymm (a b : BitVec 64) : lt64 a b = true → lt64 b a = false := by
  unfold lt64
  cases datum64 a <;> cases datum64 b <;> simp +contextual [le_of_lt]

theorem lt64_trans (a b c : BitVec 64) : lt64 a b = true → lt64 b c = true → lt64 a c = true := by
  unfold lt64
  cases datum64 a <;> cases datum64 b <;> cases datum64 c <;> simp +contextual
  exact lt_trans

/-- Data that are no NaN, neither of them less than the other, are equal (00_scope.md R12). -/
theorem eq64_of_not_lt64 (a b : BitVec 64) :
    isNaN64 a = false → isNaN64 b = false → lt64 a b = false → lt64 b a = false → eq64 a b = true := by
  unfold isNaN64 lt64 eq64
  cases datum64 a with
  | nan => simp
  | inf x => cases datum64 b with
    | inf y => cases x <;> cases y <;> simp
    | _ => cases x <;> simp
  | fin x m => cases datum64 b with
    | inf y => cases y <;> simp
    | fin y k => simpa using fun h h' => le_antisymm h' h
    | nan => simp

/-- What is no NaN lies above the smaller or below the larger of two others (00_scope.md R12). -/
theorem lt64_cut (a b c : BitVec 64) : isNaN64 b = false → lt64 a c = true → lt64 a b = true ∨ lt64 b c = true := by
  unfold isNaN64 lt64
  cases datum64 b with
  | nan => simp
  | inf x => cases datum64 a <;> cases datum64 c <;> cases x <;> simp +contextual
  | fin x m =>
    cases datum64 a <;> cases datum64 c <;> simp +contextual
    exact fun h => (lt_or_ge _ _).imp_right (lt_of_le_of_lt · h)

end Sys2Proof.Machine
end

