-- ==== Sys2Proof/Laws/Orders.lean ====
section
/-! SUPPORT. The steps of assembly and disassembly (40_datapath.md R92 to R96): concatenation and splitting are inverse,
and each reordering is an involution that keeps the number of units. -/

namespace Sys2Proof.Machine

open Sys2Proof.Config

@[simp] theorem splitUnits_length (k w : Nat) : (splitUnits k w).length = k := by
  induction k generalizing w with
  | zero => rfl
  | succ k ih => simp [splitUnits, ih]

theorem joinUnits_append (us : List (BitVec 16)) (u : BitVec 16) :
    joinUnits (us ++ [u]) = joinUnits us * 65536 + u.toNat := by simp [joinUnits]

theorem joinUnits_splitUnits (k w : Nat) : joinUnits (splitUnits k w) = w % 65536 ^ k := by
  induction k generalizing w with
  | zero => simp [splitUnits, joinUnits, Nat.mod_one]
  | succ k ih =>
    have h : w % 65536 ^ (k + 1) = w % 65536 + 65536 * (w / 65536 % 65536 ^ k) := by
      rw [Nat.pow_succ', Nat.mod_mul]
    rw [splitUnits, joinUnits_append, ih, h, BitVec.toNat_ofNat]
    omega

theorem splitUnits_joinUnits (us : List (BitVec 16)) : splitUnits us.length (joinUnits us) = us := by
  induction us using List.reverseRecOn with
  | nil => rfl
  | append_singleton us u ih =>
    have h : (joinUnits us * 65536 + u.toNat) / 65536 = joinUnits us := by have := u.isLt; omega
    have h' : BitVec.ofNat 16 (joinUnits us * 65536 + u.toNat) = u := by
      apply BitVec.eq_of_toNat_eq
      have := u.isLt
      rw [BitVec.toNat_ofNat]
      omega
    rw [joinUnits_append, List.length_append, List.length_singleton, splitUnits, h, ih, h']

theorem joinUnits_lt (us : List (BitVec 16)) : joinUnits us < 65536 ^ us.length := by
  have h := joinUnits_splitUnits us.length (joinUnits us)
  rw [splitUnits_joinUnits] at h
  rw [h]
  exact Nat.mod_lt _ (Nat.pow_pos (by decide))

@[simp] theorem bswap16_bswap16 (u : BitVec 16) : bswap16 (bswap16 u) = u := by
  apply BitVec.eq_of_toNat_eq
  have h : ∀ v : BitVec 16, (bswap16 v).toNat = v.toNat % 256 * 256 + v.toNat / 256 := by
    intro v
    show BitVec.toNat (w := 8 + 8) _ = _
    simp only [bswap16, BitVec.toNat_append, BitVec.extractLsb'_toNat, Nat.shiftRight_eq_div_pow]
    rw [← Nat.shiftLeft_add_eq_or_of_lt (Nat.mod_lt _ (by decide)), Nat.shiftLeft_eq]
    have := v.isLt
    omega
  have := u.isLt
  rw [h, h]; omega

@[simp] theorem revW_revW (p : Params) (us : List (BitVec 16)) : revW p (revW p us) = us := by
  obtain _ | ⟨a, _ | ⟨b, _ | ⟨c, _ | ⟨d, _ | ⟨e, us⟩⟩⟩⟩⟩ := us <;> simp only [revW]
  cases p.wo64 <;> rfl

@[simp] theorem revW_length (p : Params) (us : List (BitVec 16)) : (revW p us).length = us.length := by
  obtain _ | ⟨a, _ | ⟨b, _ | ⟨c, _ | ⟨d, _ | ⟨e, us⟩⟩⟩⟩⟩ := us <;> simp only [revW]
  · rfl
  · cases p.wo64 <;> rfl

@[simp] theorem swapStep_length (p : Params) (wo : WordOrder) (us : List (BitVec 16)) :
    (swapStep p wo us).length = us.length := by unfold swapStep; split <;> simp

@[simp] theorem reverseStep_length (p : Params) (wo : WordOrder) (us : List (BitVec 16)) :
    (reverseStep p wo us).length = us.length := by unfold reverseStep; split <;> simp

@[simp] theorem swapStep_swapStep (p : Params) (wo : WordOrder) (us : List (BitVec 16)) :
    swapStep p wo (swapStep p wo us) = us := by
  unfold swapStep
  split
  · simp [Function.comp_def]
  · rfl

@[simp] theorem reverseStep_reverseStep (p : Params) (wo : WordOrder) (us : List (BitVec 16)) :
    reverseStep p wo (reverseStep p wo us) = us := by unfold reverseStep; split <;> simp

/-- Reversing the bytes twice gives the low bytes back. -/
theorem bswapBytes_lt (n w : Nat) : bswapBytes n w < 256 ^ n := by
  induction n generalizing w with
  | zero => simp [bswapBytes]
  | succ n ih =>
    have h := ih (w / 256)
    have h' : w % 256 < 256 := Nat.mod_lt _ (by decide)
    calc w % 256 * 256 ^ n + bswapBytes n (w / 256) < w % 256 * 256 ^ n + 256 ^ n := by omega
      _ = (w % 256 + 1) * 256 ^ n := by ring
      _ ≤ 256 * 256 ^ n := Nat.mul_le_mul_right _ (by omega)
      _ = 256 ^ (n + 1) := by ring

@[simp] theorem disassemble_length (p : Params) (wo : WordOrder) (bo : ByteOrder) (k w : Nat) :
    (disassemble p wo bo k w).length = k := by
  unfold disassemble
  cases p.leReading <;> cases bo <;> simp

end Sys2Proof.Machine
end

