-- ==== Sys2Proof/Laws/PerInstr.lean ====
section
/-! SUPPORT. What holds of every command, one lemma per constructor of `Instr`. -/

namespace Sys2Proof.Laws.ReservedZero

/-- The reserved field of a command's word is zero (30_encoding.md R78). -/
def Statement (i : Instr) : Prop := wordField (encode i) 11 5 = 0

theorem nop : Statement (.nop) := commandWord_rsv ..
theorem decI16 (bo : ByteOrder) (wo : WordOrder) (off : Nat) : Statement (.decI16 bo wo off) := commandWord_rsv ..
theorem decU16 (bo : ByteOrder) (wo : WordOrder) (off : Nat) : Statement (.decU16 bo wo off) := commandWord_rsv ..
theorem decI32 (bo : ByteOrder) (wo : WordOrder) (off : Nat) : Statement (.decI32 bo wo off) := commandWord_rsv ..
theorem decU32 (bo : ByteOrder) (wo : WordOrder) (off : Nat) : Statement (.decU32 bo wo off) := commandWord_rsv ..
theorem decI64 (bo : ByteOrder) (wo : WordOrder) (off : Nat) : Statement (.decI64 bo wo off) := commandWord_rsv ..
theorem decU64 (bo : ByteOrder) (wo : WordOrder) (off : Nat) : Statement (.decU64 bo wo off) := commandWord_rsv ..
theorem decF32 (bo : ByteOrder) (wo : WordOrder) (off : Nat) : Statement (.decF32 bo wo off) := commandWord_rsv ..
theorem decF64 (bo : ByteOrder) (wo : WordOrder) (off : Nat) : Statement (.decF64 bo wo off) := commandWord_rsv ..
theorem decBool (bo : ByteOrder) (wo : WordOrder) (off : Nat) : Statement (.decBool bo wo off) := commandWord_rsv ..
theorem decStr (bo : ByteOrder) (wo : WordOrder) (off : Nat) (n : Nat) : Statement (.decStr bo wo off n) := commandWord_rsv ..
theorem encI16 (bo : ByteOrder) (wo : WordOrder) : Statement (.encI16 bo wo) := commandWord_rsv ..
theorem encU16 (bo : ByteOrder) (wo : WordOrder) : Statement (.encU16 bo wo) := commandWord_rsv ..
theorem encI32 (bo : ByteOrder) (wo : WordOrder) : Statement (.encI32 bo wo) := commandWord_rsv ..
theorem encU32 (bo : ByteOrder) (wo : WordOrder) : Statement (.encU32 bo wo) := commandWord_rsv ..
theorem encI64 (bo : ByteOrder) (wo : WordOrder) : Statement (.encI64 bo wo) := commandWord_rsv ..
theorem encU64 (bo : ByteOrder) (wo : WordOrder) : Statement (.encU64 bo wo) := commandWord_rsv ..
theorem encF32 (bo : ByteOrder) (wo : WordOrder) : Statement (.encF32 bo wo) := commandWord_rsv ..
theorem encF64 (bo : ByteOrder) (wo : WordOrder) : Statement (.encF64 bo wo) := commandWord_rsv ..
theorem encBool (bo : ByteOrder) (wo : WordOrder) : Statement (.encBool bo wo) := commandWord_rsv ..
theorem encStr (bo : ByteOrder) (wo : WordOrder) (off : Nat) (n : Nat) : Statement (.encStr bo wo off n) := commandWord_rsv ..
theorem toEng : Statement (.toEng) := commandWord_rsv ..
theorem toRaw : Statement (.toRaw) := commandWord_rsv ..
theorem decsI16 (bo : ByteOrder) (wo : WordOrder) (off : Nat) : Statement (.decsI16 bo wo off) := commandWord_rsv ..
theorem decsU16 (bo : ByteOrder) (wo : WordOrder) (off : Nat) : Statement (.decsU16 bo wo off) := commandWord_rsv ..
theorem decsI32 (bo : ByteOrder) (wo : WordOrder) (off : Nat) : Statement (.decsI32 bo wo off) := commandWord_rsv ..
theorem decsU32 (bo : ByteOrder) (wo : WordOrder) (off : Nat) : Statement (.decsU32 bo wo off) := commandWord_rsv ..
theorem decsI64 (bo : ByteOrder) (wo : WordOrder) (off : Nat) : Statement (.decsI64 bo wo off) := commandWord_rsv ..
theorem decsU64 (bo : ByteOrder) (wo : WordOrder) (off : Nat) : Statement (.decsU64 bo wo off) := commandWord_rsv ..
theorem decsF32 (bo : ByteOrder) (wo : WordOrder) (off : Nat) : Statement (.decsF32 bo wo off) := commandWord_rsv ..
theorem decsF64 (bo : ByteOrder) (wo : WordOrder) (off : Nat) : Statement (.decsF64 bo wo off) := commandWord_rsv ..
theorem encsI16 (bo : ByteOrder) (wo : WordOrder) : Statement (.encsI16 bo wo) := commandWord_rsv ..
theorem encsU16 (bo : ByteOrder) (wo : WordOrder) : Statement (.encsU16 bo wo) := commandWord_rsv ..
theorem encsI32 (bo : ByteOrder) (wo : WordOrder) : Statement (.encsI32 bo wo) := commandWord_rsv ..
theorem encsU32 (bo : ByteOrder) (wo : WordOrder) : Statement (.encsU32 bo wo) := commandWord_rsv ..
theorem encsI64 (bo : ByteOrder) (wo : WordOrder) : Statement (.encsI64 bo wo) := commandWord_rsv ..
theorem encsU64 (bo : ByteOrder) (wo : WordOrder) : Statement (.encsU64 bo wo) := commandWord_rsv ..
theorem encsF32 (bo : ByteOrder) (wo : WordOrder) : Statement (.encsF32 bo wo) := commandWord_rsv ..
theorem encsF64 (bo : ByteOrder) (wo : WordOrder) : Statement (.encsF64 bo wo) := commandWord_rsv ..

end Sys2Proof.Laws.ReservedZero
end

