-- ==== Sys2Proof/Tests/Slice0.lean ====
section
/-! SUPPORT. The implementer's own tests. Expected values come from spec/: the encoding table of 30_encoding.md R79, the
examples of the command rules and the vectors of 95_test_vectors.md (named V-…). Each runs one step. The theorems named
`witness_…` show a state and operands that meet the hypotheses of a statement of Certificates/Slice0/Obligations.lean. -/

namespace Sys2Proof.Tests

open Sys2Proof Sys2Proof.Machine Sys2Proof.Config Sys2Proof.Claims

-- One theorem after another: elaborated side by side, their threads' stacks fill the memory limit.
set_option Elab.async false

/-- Reset with the units `us`, `RAW_LEN` their count, and `CTRL`. -/
def withUnits (us : List (BitVec 16)) (ctrl : BitVec 3 := 0) : State :=
  { State.reset with
    unit := writeUnits State.reset.unit 0 us, rawLen := BitVec.ofNat 9 us.length, ctrl := ctrl }

/-- Reset with `VAL` and `CTRL`. -/
def withVal (v : BitVec 64) (ctrl : BitVec 3 := 0) : State := { State.reset with val := v, ctrl := ctrl }

/-- A state with the scale S1 = (0, 1000, 0, 100) of 43_scaler.md. -/
def scaleS1 (s : State) : State := { s with rawHi := 0x408F400000000000, engHi := 0x4059000000000000 }

/-- A state with the scale S2 = (4, 20, 0, 100) of 43_scaler.md. -/
def scaleS2 (s : State) : State :=
  { s with rawLo := 0x4010000000000000, rawHi := 0x4034000000000000, engHi := 0x4059000000000000 }

/-- What the host sees of a command's result: `RES`, the code of `RES_TYPE`, `STATUS`. -/
def resultOf (s : State) (w : Nat) : Option (BitVec 64 × BitVec 3 × BitVec 4) :=
  match step (s.withFetchWord 32 w) with
  | .next t => some (t.res, t.resType.code, t.status)
  | _ => none

/-- What the host sees of a command's output: `OUT[0..OUT_LEN-1]`, `STATUS`. -/
def outputOf (s : State) (w : Nat) : Option (List (BitVec 16) × BitVec 4) :=
  match step (s.withFetchWord 32 w) with
  | .next t => some (t.out.toList.take t.outLen.toNat, t.status)
  | _ => none

/-! ### Well-formedness: a term each check refuses -/

theorem test_offset_256_is_refused : (Instr.decI16 .be .abcd 256).wf = false := by decide
theorem test_length_0_is_refused : (Instr.decStr .be .abcd 0 0).wf = false := by decide
theorem test_length_257_is_refused : (Instr.encStr .be .abcd 0 257).wf = false := by decide
theorem test_largest_operands_are_accepted : (Instr.encStr .le .dcba 255 256).wf = true := by decide

/-! ### Decoding: a word written out from 30_encoding.md R71 and R79 for every row -/

/-- SLEN, OFFSET, RSV, WO, BO, KIND, OP, most significant first (30_encoding.md R71). -/
def bits (slen off : BitVec 8) (wo : BitVec 2) (bo : BitVec 1) (kind op : BitVec 4) : BitVec 32 :=
  slen ++ off ++ 0b00000#5 ++ wo ++ bo ++ kind ++ op

theorem test_decode_control_and_scaler :
    decode (bits 0 0 0b00 0b0 0x0 0x0) = .ok .nop ∧
    decode (bits 0 0 0b00 0b0 0x0 0x3) = .ok .toEng ∧
    decode (bits 0 0 0b00 0b0 0x0 0x4) = .ok .toRaw := by decide +kernel

theorem test_decode_DEC :
    decode (bits 0 0 0b00 0b0 0x0 0x1) = .ok (.decI16 .be .abcd 0) ∧
    decode (bits 0 1 0b01 0b0 0x1 0x1) = .ok (.decU16 .be .cdab 1) ∧
    decode (bits 0 255 0b10 0b1 0x2 0x1) = .ok (.decI32 .le .badc 255) ∧
    decode (bits 0 3 0b11 0b1 0x3 0x1) = .ok (.decU32 .le .dcba 3) ∧
    decode (bits 0 0 0b00 0b0 0x4 0x1) = .ok (.decI64 .be .abcd 0) ∧
    decode (bits 0 1 0b01 0b0 0x5 0x1) = .ok (.decU64 .be .cdab 1) ∧
    decode (bits 0 255 0b10 0b1 0x6 0x1) = .ok (.decF32 .le .badc 255) ∧
    decode (bits 0 3 0b11 0b1 0x7 0x1) = .ok (.decF64 .le .dcba 3) ∧
    decode (bits 0 0 0b00 0b0 0x8 0x1) = .ok (.decBool .be .abcd 0) ∧
    decode (bits 0xFF 0x80 0b01 0b1 0x9 0x1) = .ok (.decStr .le .cdab 128 256) := by decide +kernel

theorem test_decode_ENC :
    decode (bits 0 0 0b00 0b0 0x0 0x2) = .ok (.encI16 .be .abcd) ∧
    decode (bits 0 0 0b01 0b0 0x1 0x2) = .ok (.encU16 .be .cdab) ∧
    decode (bits 0 0 0b10 0b1 0x2 0x2) = .ok (.encI32 .le .badc) ∧
    decode (bits 0 0 0b11 0b1 0x3 0x2) = .ok (.encU32 .le .dcba) ∧
    decode (bits 0 0 0b00 0b0 0x4 0x2) = .ok (.encI64 .be .abcd) ∧
    decode (bits 0 0 0b01 0b0 0x5 0x2) = .ok (.encU64 .be .cdab) ∧
    decode (bits 0 0 0b10 0b1 0x6 0x2) = .ok (.encF32 .le .badc) ∧
    decode (bits 0 0 0b11 0b1 0x7 0x2) = .ok (.encF64 .le .dcba) ∧
    decode (bits 0 0 0b00 0b0 0x8 0x2) = .ok (.encBool .be .abcd) ∧
    decode (bits 0x00 0xFF 0b11 0b1 0x9 0x2) = .ok (.encStr .le .dcba 255 1) := by decide +kernel

theorem test_decode_DECS :
    decode (bits 0 0 0b00 0b0 0x0 0x5) = .ok (.decsI16 .be .abcd 0) ∧
    decode (bits 0 1 0b01 0b0 0x1 0x5) = .ok (.decsU16 .be .cdab 1) ∧
    decode (bits 0 255 0b10 0b1 0x2 0x5) = .ok (.decsI32 .le .badc 255) ∧
    decode (bits 0 3 0b11 0b1 0x3 0x5) = .ok (.decsU32 .le .dcba 3) ∧
    decode (bits 0 0 0b00 0b0 0x4 0x5) = .ok (.decsI64 .be .abcd 0) ∧
    decode (bits 0 1 0b01 0b0 0x5 0x5) = .ok (.decsU64 .be .cdab 1) ∧
    decode (bits 0 255 0b10 0b1 0x6 0x5) = .ok (.decsF32 .le .badc 255) ∧
    decode (bits 0 3 0b11 0b1 0x7 0x5) = .ok (.decsF64 .le .dcba 3) := by decide +kernel

theorem test_decode_ENCS :
    decode (bits 0 0 0b00 0b0 0x0 0x6) = .ok (.encsI16 .be .abcd) ∧
    decode (bits 0 0 0b01 0b0 0x1 0x6) = .ok (.encsU16 .be .cdab) ∧
    decode (bits 0 0 0b10 0b1 0x2 0x6) = .ok (.encsI32 .le .badc) ∧
    decode (bits 0 0 0b11 0b1 0x3 0x6) = .ok (.encsU32 .le .dcba) ∧
    decode (bits 0 0 0b00 0b0 0x4 0x6) = .ok (.encsI64 .be .abcd) ∧
    decode (bits 0 0 0b01 0b0 0x5 0x6) = .ok (.encsU64 .be .cdab) ∧
    decode (bits 0 0 0b10 0b1 0x6 0x6) = .ok (.encsF32 .le .badc) ∧
    decode (bits 0 0 0b11 0b1 0x7 0x6) = .ok (.encsF64 .le .dcba) := by decide +kernel

/-- The words of V-CTL-02 to V-CTL-17 are illegal, each for the reason the row gives. -/
theorem test_decode_illegal_words :
    [0x10, 0x7, 0xF, 0xA1, 0xF2, 0x85, 0x96, 0x803, 0x10003, 0x1000004, 0x1000021, 0x10022, 0x10056, 0x1000015, 0x8001,
      0x80000000].map (fun w : Nat => match decode (BitVec.ofNat 32 w) with | .ok _ => none | .error e => some e) =
    [some .nonZeroField, some .reservedOp, some .reservedOp, some .reservedKind, some .reservedKind, some .reservedKind,
      some .reservedKind, some .reservedBits, some .nonZeroField, some .nonZeroField, some .nonZeroField,
      some .nonZeroField, some .nonZeroField, some .nonZeroField, some .reservedBits, some .nonZeroField] := by
  decide +kernel

/-- 30_encoding.md R83: `DEC.I32 LE, CDAB, off=3` assembles to 0x00030321. -/
theorem test_assembler_example :
    assembleLine { name := .dec .i32, bo := some .le, wo := some .cdab, off := some 3 } = some 0x00030321#32 := by
  decide +kernel

/-- 41_decode.md R130: `DEC.STR n=10` is the word 0x09000091. -/
theorem test_assembler_string : assembleLine { name := .dec .str, n := some 10 } = some 0x09000091#32 := by
  decide +kernel

/-! ### The host port -/

/-- V-MEM-16, V-CTL-07: an illegal word is held in `CMD` and sets ILL alone. -/
theorem test_illegal_word :
    (match step (State.withFetchWord { State.reset with status := 0x8, res := 0x1234 } 32 0x85) with
      | .next t => some (busRead 0x00C t, busRead 0x008 t, t.res)
      | _ => none) = some (0x85#32, 0x1#32, 0x1234#64) := by decide +kernel

/-- V-MEM-13: an 8-bit write at `CMD` gets BUSERR, stores and executes nothing. -/
theorem test_byte_write_to_cmd :
    (match step { State.reset with status := 0x8, pending := [.write 0x00C 8 0x01] } with
      | .next t => some (t.response, t.cmd, t.status)
      | _ => none) = some (.busErr, 0#32, 0x8#4) := by decide +kernel

/-- V-MEM-05: a write of 0xFFFFFFFF to `RAW_LEN` reads back 256. -/
theorem test_raw_len_is_clamped :
    (match step { State.reset with pending := [.write 0x014 32 0xFFFFFFFF#32] } with
      | .next t => some (busRead 0x014 t)
      | _ => none) = some 0x100#32 := by decide +kernel

/-- V-MEM-15 (the second write): the high half of `VAL` is replaced, the low half kept. -/
theorem test_high_half_of_val :
    (match step { State.reset with val := 0x54442D18#64, pending := [.write 0x044 32 0x400921FB#32] } with
      | .next t => some (t.val)
      | _ => none) = some 0x400921FB54442D18#64 := by decide +kernel

/-! ### Commands, through decoder and step -/

/-- V-CTL-01. -/
theorem test_nop : resultOf { State.reset with status := 0x8, res := 0x1234, resType := .uint } 0 =
    some (0x1234#64, 2#3, 0#4) := by decide +kernel

/-- V-DEC-01. -/
theorem test_DEC_I16 : resultOf (withUnits [0x8000]) 0x00000001 = some (0xFFFFFFFFFFFF8000#64, 1#3, 0#4) := by decide +kernel

/-- V-DEC-04. -/
theorem test_DEC_I16_short : resultOf (withUnits [0x1234]) 0x00030001 = some (0#64, 1#3, 2#4) := by decide +kernel

/-- V-DEC-07. -/
theorem test_DEC_U16 : resultOf (withUnits [0xFFFF]) 0x00000511 = some (0xFFFF#64, 2#3, 0#4) := by decide +kernel

/-- V-DEC-10. -/
theorem test_DEC_I32 : resultOf (withUnits [0xAABB, 0xCCDD]) 0x00000421 = some (0xFFFFFFFFBBAADDCC#64, 1#3, 0#4) := by decide +kernel

/-- V-DEC-12. -/
theorem test_DEC_I32_short : resultOf (withUnits [0x1234]) 0x00000021 = some (0x12340000#64, 1#3, 2#4) := by decide +kernel

/-- V-DEC-16. -/
theorem test_DEC_U32 : resultOf (withUnits [0xBBAA, 0xDDCC]) 0x00000731 = some (0xAABBCCDD#64, 2#3, 0#4) := by decide +kernel

/-- V-DEC-20. -/
theorem test_DEC_I64_integer : resultOf (withUnits [0x7788, 0x5566, 0x3344, 0x1122] 4) 0x00000241 = some (0x1122334455667788#64, 1#3, 0#4) := by decide +kernel

/-- V-DEC-19. -/
theorem test_DEC_I64_legacy : resultOf (withUnits [0x8000, 0, 0, 0]) 0x00000041 = some (0x8000000000000000#64, 3#3, 0#4) := by decide +kernel

/-- V-DEC-23. -/
theorem test_DEC_U64_integer : resultOf (withUnits [0, 0, 0, 1] 4) 0x00000151 = some (0x0001000000000000#64, 2#3, 0#4) := by decide +kernel

/-- 95_test_vectors.md 2.8, P_LEGACY64 = ARITH: 2^64 − 1 rounds to 2^64. -/
theorem test_DEC_U64_arith : resultOf ({ withUnits [0xFFFF, 0xFFFF, 0xFFFF, 0xFFFF] with cfg := { legacy64 := .arith } }) 0x00000051 = some (0x43F0000000000000#64, 3#3, 0#4) := by decide +kernel

/-- V-DEC-25. -/
theorem test_DEC_F32 : resultOf (withUnits [0x0000, 0x0001]) 0x00000061 = some (0x36A0000000000000#64, 3#3, 0#4) := by decide +kernel

/-- V-DEC-28: a binary32 NaN is given the draw, whatever it is. -/
theorem test_DEC_F32_nan_is_drawn :
    cvt32to64 0xFFF0000000000001 0x7FC00000 = 0xFFF0000000000001 ∧ isNaN64 0xFFF0000000000001 = true := by
  decide +kernel

/-- V-DEC-30. -/
theorem test_DEC_F64 : resultOf (withUnits [0x2D18, 0x5444, 0x21FB, 0x4009]) 0x00000171 = some (0x400921FB54442D18#64, 3#3, 0#4) := by decide +kernel

/-- 41_decode.md R129, example: the offset is ignored. -/
theorem test_DEC_BOOL : resultOf (withUnits [0x0001, 0x0000]) 0x00010081 = some (1#64, 4#3, 0#4) := by decide +kernel

/-- V-DEC-35 (result). -/
theorem test_DEC_STR : resultOf (withUnits [0x41, 0x42, 0x43]) 0x03020091 = some (4#64, 5#3, 2#4) := by decide +kernel

/-- V-DEC-35 (output). -/
theorem test_DEC_STR_output : outputOf (withUnits [0x41, 0x42, 0x43]) 0x03020091 = some ([0x43, 0, 0, 0], 2#4) := by decide +kernel

/-- V-ENC-06. -/
theorem test_ENC_I16 : outputOf (withVal 0xC004000000000000) 0x00000002 = some ([0xFFFE], 0#4) := by decide +kernel

/-- V-ENC-03. -/
theorem test_ENC_I16_saturates : outputOf (withVal 0xFFF0000000000000) 0x00000002 = some ([0x8000], 8#4) := by decide +kernel

/-- V-ENC-12: −0.4 lies below 0 before rounding. -/
theorem test_ENC_U16 : outputOf (withVal 0xBFD999999999999A) 0x00000012 = some ([0], 8#4) := by decide +kernel

/-- V-ENC-19. -/
theorem test_ENC_I32 : outputOf (withVal 0xC1D50C843FC00000) 0x00000422 = some ([0xCDAB, 0x01EF], 0#4) := by decide +kernel

/-- V-ENC-21. -/
theorem test_ENC_U32 : outputOf (withVal 0x41B2345678000000) 0x00000332 = some ([0x1234, 0x5678], 0#4) := by decide +kernel

/-- V-ENC-26. -/
theorem test_ENC_I64_integer : outputOf (withVal 0x43B12210F47DE981 4) 0x00000242 = some ([0x8100, 0x7DE9, 0x10F4, 0x1122], 0#4) := by decide +kernel

/-- V-ENC-24. -/
theorem test_ENC_I64_legacy : outputOf (withVal 0x43E0000000000000) 0x00000042 = some ([0x43E0, 0, 0, 0], 8#4) := by decide +kernel

/-- V-ENC-27. -/
theorem test_ENC_U64_integer : outputOf (withVal 0x43F0000000000000 4) 0x00000052 = some ([0xFFFF, 0xFFFF, 0xFFFF, 0xFFFF], 8#4) := by decide +kernel

/-- V-ENC-28. -/
theorem test_ENC_U64_legacy : outputOf (withVal 0x43F0000000000000) 0x00000052 = some ([0x43F0, 0, 0, 0], 8#4) := by decide +kernel

/-- V-ENC-33: 0.1 rounds. -/
theorem test_ENC_F32 : outputOf (withVal 0x3FB999999999999A) 0x00000062 = some ([0x3DCC, 0xCCCD], 0#4) := by decide +kernel

/-- V-ENC-37: the tie at the top goes to infinity. -/
theorem test_ENC_F32_overflows : outputOf (withVal 0x47EFFFFFF0000000) 0x00000062 = some ([0x7F80, 0], 0#4) := by decide +kernel

/-- V-ENC-42. -/
theorem test_ENC_F64 : outputOf (withVal 0x3FF0000000000000) 0x00000772 = some ([0xF03F, 0, 0, 0], 0#4) := by decide +kernel

/-- V-ENC-44: −0.0 is false. -/
theorem test_ENC_BOOL : outputOf (withVal 0x8000000000000000) 0x00000082 = some ([0], 0#4) := by decide +kernel

/-- V-ENC-46: a NaN is true. -/
theorem test_ENC_BOOL_nan : outputOf (withVal 0x7FF8000000000000) 0x00000082 = some ([1], 0#4) := by decide +kernel

/-- V-ENC-50. -/
theorem test_ENC_STR : outputOf (withUnits [0x41, 0x42, 0x43]) 0x04010092 = some ([0x42, 0x43, 0, 0, 0], 2#4) := by decide +kernel

/-- V-SCL-11: the order of evaluation shows. -/
theorem test_TOENG : resultOf (scaleS2 (withVal 0x402499999999999A)) 0x3 = some (0x4043B00000000001#64, 3#3, 0#4) := by decide +kernel

/-- V-SCL-04. -/
theorem test_TOENG_clamps : resultOf (scaleS1 (withVal 0xC000000000000000 2)) 0x3 = some (0#64, 3#3, 8#4) := by decide +kernel

/-- V-SCL-26. -/
theorem test_TORAW : resultOf (scaleS1 (withVal 0x4040A66666666666)) 0x4 = some (0x4074CFFFFFFFFFFF#64, 3#3, 0#4) := by decide +kernel

/-- V-SCL-32. -/
theorem test_TORAW_degenerate : resultOf ({ withVal 0x4022000000000000 with rawLo := 0x4008000000000000, rawHi := 0x4020000000000000, engLo := 0x4018000000000000, engHi := 0x4018000000000000 }) 0x4 = some (0x4008000000000000#64, 3#3, 4#4) := by decide +kernel

/-- V-DECS-02. -/
theorem test_DECS_I16 : resultOf (scaleS1 (withUnits [0xFFFE])) 0x5 = some (0xBFC999999999999A#64, 3#3, 0#4) := by decide +kernel

/-- 43_scaler.md R168: the unit 0xFFFE is 65534. -/
theorem test_DECS_U16 : resultOf (scaleS1 (withUnits [0xFFFE])) 0x15 = some (0x40B9996666666667#64, 3#3, 0#4) := by decide +kernel

/-- V-DECS-06. -/
theorem test_DECS_I32 : resultOf ({ withUnits [0xFFFF, 0x8000] with rawLo := 0xC0E0000000000000, rawHi := 0x40DFFFC000000000, engLo := 0xC059000000000000, engHi := 0x4059000000000000 }) 0x25 = some (0xC059000000000000#64, 3#3, 0#4) := by decide +kernel

/-- V-DECS-07. -/
theorem test_DECS_U32 : resultOf (scaleS1 (withUnits [0x5678, 0x1234])) 0x235 = some (0x417D208A5999999A#64, 3#3, 0#4) := by decide +kernel

/-- V-DECS-08. -/
theorem test_DECS_I64 : resultOf (scaleS1 (withUnits [0, 0, 0, 0xFA] 4)) 0x45 = some (0x4039000000000000#64, 3#3, 0#4) := by decide +kernel

/-- 43_scaler.md R172, example. -/
theorem test_DECS_U64 : resultOf ({ withUnits [0, 0x0100, 0, 0] 4 with rawHi := 0x412E848000000000, engHi := 0x408F400000000000 }) 0x55 = some (0x41D0624DD2F1A9FC#64, 3#3, 0#4) := by decide +kernel

/-- V-DECS-09. -/
theorem test_DECS_F32 : resultOf (scaleS2 (withUnits [0x4140, 0])) 0x65 = some (0x4049000000000000#64, 3#3, 0#4) := by decide +kernel

/-- V-DECS-10. -/
theorem test_DECS_F64 : resultOf (scaleS2 (withUnits [0x4035, 0, 0, 0] 2)) 0x75 = some (0x4059000000000000#64, 3#3, 8#4) := by decide +kernel

/-- V-ENCS-12. -/
theorem test_ENCS_I16 : outputOf ({ withVal 0x401C000000000000 with rawLo := 0x4008000000000000, rawHi := 0x4020000000000000, engLo := 0x4018000000000000, engHi := 0x4018000000000000 }) 0x6 = some ([3], 4#4) := by decide +kernel

/-- V-ENCS-04. -/
theorem test_ENCS_U16 : outputOf (scaleS1 (withVal 0x4040A66666666666)) 0x16 = some ([0x014D], 0#4) := by decide +kernel

/-- V-ENCS-05. -/
theorem test_ENCS_I32 : outputOf (scaleS1 (withVal 0xC024000000000000)) 0x26 = some ([0xFFFF, 0xFF9C], 0#4) := by decide +kernel

/-- V-ENCS-06. -/
theorem test_ENCS_U32 : outputOf (scaleS1 (withVal 0x4029000000000000)) 0x136 = some ([0x007D, 0], 0#4) := by decide +kernel

/-- V-ENCS-08. -/
theorem test_ENCS_I64 : outputOf (scaleS1 (withVal 0xC024000000000000)) 0x46 = some ([0xC059, 0, 0, 0], 0#4) := by decide +kernel

/-- V-ENCS-09. -/
theorem test_ENCS_U64 : outputOf (scaleS1 (withVal 0x4049000000000000 4)) 0x56 = some ([0, 0, 0, 0x01F4], 0#4) := by decide +kernel

/-- V-ENCS-10. -/
theorem test_ENCS_F32 : outputOf (scaleS2 (withVal 0x4049000000000000)) 0x66 = some ([0x4140, 0], 0#4) := by decide +kernel

/-- V-ENCS-11. -/
theorem test_ENCS_F64 : outputOf (scaleS2 (withVal 0x4049000000000000)) 0x76 = some ([0x4028, 0, 0, 0], 0#4) := by decide +kernel

/-! ### Witnesses: hypotheses of the statements, met together

Where a statement has several clauses there is a conjunct for each, at a boundary of its range. -/

/-- A state with registers that differ from reset and the given pending events. -/
def busy (pending : List HostEvent) : State :=
  { withUnits [0x1234, 0xABCD] 5 with status := 8, val := 0x3FF0000000000000, res := 7, resType := .int, pending := pending }

theorem witness_EncodedCommandsDecodeBack :
    (Instr.decStr .le .dcba 255 256).WellFormed ∧ (Instr.encStr .be .abcd 0 1).WellFormed := by decide

theorem witness_LegalWordsEncodeBack : decode 0x00030321#32 = .ok (.decI32 .le .cdab 3) := by decide +kernel

theorem witness_WordSelectsTheRowItDecodesTo :
    (⟨.dec .i32, 0xFF00F8FF, 0x21⟩ : OpcodeRow) ∈ opcodeRows ∧ 0x00030321#32 &&& 0xFF00F8FF#32 = 0x21#32 := by
  decide +kernel

theorem witness_OpcodeRowsAreDisjoint :
    (⟨.enc .str, 0x0000F8FF, 0x92⟩ : OpcodeRow) ∈ opcodeRows ∧ 0xFFFF0792#32 &&& 0x0000F8FF#32 = 0x92#32 := by
  decide +kernel

/-- One word in each family of R80, at the edge of its range, and legal neighbours. -/
theorem witness_IllegalWordsAreThoseListed :
    field 0x00000803#32 11 5 ≠ 0 ∧ field 0x00000007#32 0 4 = 7 ∧ (field 0xA1#32 0 4 = 1 ∧ field 0xA1#32 4 4 = 0xA) ∧
    (field 0x86#32 0 4 = 6 ∧ field 0x86#32 4 4 = 8) ∧ field 0x80000000#32 4 28 ≠ 0 ∧
    (field 0x01000081#32 4 4 = 8 ∧ field 0x01000081#32 24 8 = 1) ∧
    (field 0x00010022#32 4 4 = 2 ∧ field 0x00010022#32 16 8 = 1) := by decide +kernel

/-- A line of each shape at the ends of its ranges, and beside it one the syntax does not admit. -/
theorem witness_AssemblerRejectsBadOperands :
    LineFits { name := .dec .i32, off := some 255 } ∧ ¬ LineFits { name := .dec .i32, off := some 256 } ∧
    ¬ LineFits { name := .dec .i32, n := some 1 } ∧ LineFits { name := .dec .str, n := some 256 } ∧
    ¬ LineFits { name := .dec .str, n := some 257 } ∧ ¬ LineFits { name := .dec .str } ∧
    ¬ LineFits { name := .enc .str, n := some 1, bo := some .be } ∧ LineFits { name := .enc .bool, wo := some .dcba } ∧
    ¬ LineFits { name := .enc .i16, off := some 0 } ∧ ¬ LineFits { name := .decs .str, n := some 1 } ∧
    ¬ LineFits { name := .encs .f64, off := some 0 } ∧ ¬ LineFits { name := .nop, off := some 0 } := by
  simp [LineFits]

theorem witness_StepRunsTheDecodedCommand :
    Ready (busy [commandEvent 0x00000021, .read 0x048 32]) 0x00000021 [.read 0x048 32] ∧
    decode 0x00000021 = .ok (.decI32 .be .abcd 0) := by decide +kernel

theorem witness_IllegalCommandOnlySetsIll :
    Ready (busy [commandEvent 0x00000007]) 0x00000007 [] ∧ IllegalByTable 0x00000007 :=
  ⟨by decide +kernel, .inr (.inl (by decide))⟩

theorem witness_BadAccessGetsBusErr :
    4095 < 4096 ∧ (32 ≠ 32 ∨ 4095 % 4 ≠ 0) ∧ (16 ≠ 32 ∨ 0x00C % 4 ≠ 0) ∧
    (busy [.read 4095 32]).cfg.busErrorSignalled = true ∧ (busy [.read 4095 32]).pending = [.read 4095 32] ∧
    (busy [.write 0x00C 16 1]).pending = [.write 0x00C 16 1] := by decide

theorem witness_AccessInResetGetsBusErr :
    4095 < 4096 ∧ { busy [.read 4095 32] with inReset := true }.inReset = true ∧
    { busy [.read 4095 32] with inReset := true }.pending = [.read 4095 32] ∧
    { busy [.write 0x00C 32 0] with inReset := true }.pending = [.write 0x00C 32 0] ∧
    (busy [.resetLine true]).pending = [.resetLine true] ∧ (busy [.resetLine false]).inReset = false ∧
    (busy [.resetLine false]).pending = [.resetLine false] := by decide

theorem witness_BadAccessWithoutErrorLine :
    4095 < 4096 ∧ (8 ≠ 32 ∨ 4095 % 4 ≠ 0) ∧
    { busy [.read 0x00C 32] with inReset := true, cfg := { busErrorSignalled := false } }.inReset = true ∧
    { busy [.write 4095 8 0] with cfg := { busErrorSignalled := false } }.cfg.busErrorSignalled = false ∧
    { busy [.write 4095 8 0] with cfg := { busErrorSignalled := false } }.pending = [.write 4095 8 0] ∧
    { busy [.read 4095 8] with cfg := { busErrorSignalled := false } }.pending = [.read 4095 8] := by decide

theorem witness_ResetReleaseRestoresResetValues :
    { busy [.resetLine false] with inReset := true }.inReset = true ∧
    { busy [.resetLine false] with inReset := true }.pending = [.resetLine false] := by decide

/-- The halves of `RES`, a unit and an output, by the map of 20_memory.md R51. -/
theorem test_slots_read_their_registers :
    let s := { busy [] with res := 0x1122334455667788, out := (busy []).out.set 255 0xBEEF, resType := .str }
    busRead 0x048 s = 0x55667788#32 ∧ busRead 0x04C s = 0x11223344#32 ∧ busRead 0x404 s = 0xABCD#32 ∧
    busRead 0xBFC s = 0xBEEF#32 ∧ busRead 0x01C s = 5#32 ∧ busRead 0x008 s = 8#32 := by decide +kernel

theorem witness_ReadsHaveNoSideEffect :
    0xFFC < 4096 ∧ 0xFFC % 4 = 0 ∧ (busy [.read 0xFFC 32]).inReset = false ∧
    (busy [.read 0xFFC 32]).pending = [.read 0xFFC 32] := by decide

/-- The edges of the ignored ranges: the first and last slot of each. -/
theorem witness_IgnoredWritesChangeNothing :
    0x04C ∈ [0x000, 0x008, 0x018, 0x01C, 0x048, 0x04C] ∧ (0x050 ≤ 0x050 ∧ 0x050 < 0x400) ∧
    (0x050 ≤ 0x3FC ∧ 0x3FC < 0x400) ∧ 0x800 ≤ 0x800 ∧ 0x800 ≤ 0xBFC ∧ 0xC00 ≤ 0xC00 ∧ 0xC00 ≤ 0xFFC ∧ 0xFFC < 4096 ∧
    (busy [.write 0x050 32 9]).pending = [.write 0x050 32 9] ∧ (busy [.write 0x050 32 9]).inReset = false ∧
    (busy [.read 0xC00 32]).pending = [.read 0xC00 32] ∧ (busy [.read 0xC00 32]).inReset = false := by decide

/-- A slot in each range of `readBack`. -/
theorem witness_WriteStoresItsSlotOnly :
    (∀ off ∈ [0x000, 0x004, 0x010, 0x014, 0x020, 0x044, 0x048, 0x400, 0x7FC, 0x800, 0xFFC],
      off < 4096 ∧ off % 4 = 0 ∧ off ≠ 0x00C) ∧
    (busy [.write 0x7FC 32 0xFFFFFFFF]).inReset = false ∧
    (busy [.write 0x7FC 32 0xFFFFFFFF]).pending = [.write 0x7FC 32 0xFFFFFFFF] := by decide

theorem witness_NopClearsStatus : field 0x80000000#32 0 4 = 0 ∧ 0x80000000#32 ≠ 0#32 := by decide

theorem witness_WaitsForTheHost : (busy []).pending = [] := by decide

theorem witness_AccessOutsideWindowFaults :
    4096 ≤ 4096 ∧ (busy [.read 4096 32]).pending = [.read 4096 32] ∧
    (busy [.write 4096 8 0]).pending = [.write 4096 8 0] := by decide

theorem witness_StepKeepsRegistersLegal :
    (busy [.write 0x014 32 0x1000]).Legal ∧
    (match step (busy [.write 0x014 32 0x1000]) with | .next t => decide (t.rawLen = 256) | _ => false) = true := by
  decide +kernel

theorem witness_RunsInTheWindowNeverStop :
    (busy [.write 0xFFC 8 0, .resetLine true, .read 0 32, commandEvent 7]).HostInWindow := by decide +kernel

theorem witness_NoCommandWritesItsOperands :
    exec .nop (busy []) = .next { busy [] with status := 0 } := rfl

theorem witness_CommandsWriteAnOutputPrefix :
    (Instr.encStr .be .abcd 0 256).WellFormed ∧ Instr.nop.WellFormed ∧
    exec .nop (busy []) = .next { busy [] with status := 0 } ∧
    (match exec (.encStr .be .abcd 0 256) (busy []) with | .next t => t.outLen.toNat | _ => 0) = 256 :=
  ⟨by decide, by decide, rfl, by decide +kernel⟩

theorem witness_NoStepChangesParameters : step (busy []) = .next (busy []) := rfl

theorem witness_RepeatedCommandChangesNothing :
    exec .nop (busy []) = .next { busy [] with status := 0 } := rfl

theorem witness_CommandsSeeOnlyTheirOperands :
    SameOperands (busy []) { busy [] with res := 1, resType := .uint, status := 2, outLen := 3, cmd := 4 } ∧
    busy [] ≠ { busy [] with res := 1, resType := .uint, status := 2, outLen := 3, cmd := 4 } := by decide +kernel

theorem witness_Decode64BitIntegers :
    (busy []).ctrl.getLsbD 2 = true ∧ (withUnits []).ctrl.getLsbD 2 = false ∧
    (withUnits []).cfg.legacy64 = .reinterpret ∧
    { withUnits [] with cfg := { legacy64 := .arith } }.cfg.legacy64 = .arith := by decide

theorem witness_StringsAreCopied : 1 ≤ 1 ∧ 1 ≤ 256 ∧ 256 ≤ 256 := by decide

theorem witness_Encode64BitIntegers :
    ((busy []).ctrl.getLsbD 2 = true ∨ (busy []).cfg.legacy64 = .arith) ∧
    ({ busy [] with ctrl := 0, cfg := { legacy64 := .arith } }.ctrl.getLsbD 2 = true ∨
      { busy [] with ctrl := 0, cfg := { legacy64 := .arith } }.cfg.legacy64 = .arith) ∧
    ((withUnits []).ctrl.getLsbD 2 = false ∧ (withUnits []).cfg.legacy64 = .reinterpret) := by decide

theorem witness_ClampEnableTruthTable :
    (busy []).cfg.clampRule = .precedence ∧
    { busy [] with cfg := { clampRule := .disjunction } }.cfg.clampRule = .disjunction := by decide

/-- 43_scaler.md R165, example: 150 is clamped to 100, either way the bounds are declared. R161: a NaN bound leaves the
other one in force. -/
theorem test_clamp_above :
    clampEng 0x4062C00000000000 0 0x4059000000000000 = (0x4059000000000000, true) ∧
    clampEng 0x4062C00000000000 0x4059000000000000 0 = (0x4059000000000000, true) ∧
    clampEng 0x4062C00000000000 0x7FF8000000000000 0x4059000000000000 = (0x4059000000000000, true) := by
  decide +kernel

/-- A value below both bounds, one above both, one between, and a NaN bound on either side. -/
theorem witness_EngineeringClampBounds :
    isNaN64 0x7FF0000000000000 = false ∧ isNaN64 0x8000000000000000 = false ∧ isNaN64 0x7FF0000000000001 = true ∧
    (lt64 0xBFF0000000000000 0x8000000000000000 = true ∧ lt64 0xBFF0000000000000 0x7FF0000000000000 = true) ∧
    (lt64 0x8000000000000000 0x4062C00000000000 = true ∧ lt64 0x4059000000000000 0x4062C00000000000 = true) ∧
    (clampEng 0x4000000000000000 0x8000000000000000 0x7FF0000000000000).2 = false ∧
    (lt64 0xBFF0000000000000 0 = true ∧ isNaN64 0xFFFFFFFFFFFFFFFF = true) ∧
    (lt64 0x4000000000000000 0x7FF0000000000001 = false ∧ lt64 0x4059000000000000 0x4000000000000000 = false) := by
  decide +kernel

theorem witness_ToEngScalesVal :
    clampOn (withUnits []) = false ∧ clampOn (withUnits [] 2) = true := by decide +kernel

theorem witness_DegenerateScaleGivesEngLow :
    eq64 { withUnits [] 2 with rawHi := 0x8000000000000000 }.rawHi (withUnits []).rawLo = true := by decide +kernel

theorem witness_ToRawScalesVal :
    eq64 (withUnits []).engHi (withUnits []).engLo = true ∧
    eq64 (scaleS1 (withUnits [])).engHi (scaleS1 (withUnits [])).engLo = false := by decide +kernel

theorem witness_AssemblyAndDisassemblyAreInverse :
    (0xFFFFFFFF < 2 ^ (16 * 2)) ∧ (0xFFFFFFFFFFFFFFFF < 2 ^ (16 * 4)) ∧
    ([1, 2] : List (BitVec 16)).length = 2 ∧ ([1, 2, 3, 4] : List (BitVec 16)).length = 4 := by decide +kernel

/-- A tie for each mode: 5/2. -/
theorem witness_IntegerRoundingIsNearest :
    0 < 2 ∧ 2 * |roundInt .tiesEven 5 2 * 2 - 5| = 2 ∧ 2 * |roundInt .tiesAway (-5) 2 * 2 - (-5)| = 2 ∧
    2 * |roundInt .tiesUp (-5) 2 * 2 - (-5)| = 2 := by decide +kernel

theorem witness_ClampThenRoundToRange :
    (0 : Int) ≤ 0 ∧ binary64.decode 0x7FF0000000000001 = .nan ∧ binary64.decode 0xFFF0000000000000 = .inf true ∧
    binary64.decode 0x8000000000000001 = .fin true 1 := by decide +kernel

/-- Exactly the overflow threshold of binary32, and the number below it. -/
theorem witness_RoundingIsNearestTiesToEven :
    (2 ^ (binary32.fracBits + 2) - 1) * 2 ^ (2 ^ binary32.expBits - 4) * 1 ≤ (2 ^ 25 - 1) * 2 ^ 252 ∧
    (2 ^ 25 - 1) * 2 ^ 252 - 1 < (2 ^ (binary32.fracBits + 2) - 1) * 2 ^ (2 ^ binary32.expBits - 4) * 1 ∧
    binary32.infPattern - 1 < binary32.infPattern ∧
    datum64 0x8000000000000000 = .fin true 0 ∧ datum64 0x000FFFFFFFFFFFFF = .fin false 0xFFFFFFFFFFFFF ∧
    0 < 0xFFFFFFFFFFFFF := by decide +kernel

theorem witness_IntegersToTwoPow53AreExact :
    |(-9007199254740992 : Int)| ≤ 2 ^ 53 ∧ |(18446744073709551615 : Int)| < 2 ^ 64 := by decide +kernel

/-- 41_decode.md R126: the integer 2^64 − 1 becomes 2^64. -/
theorem test_RNE64_top : rne64 18446744073709551615 = 0x43F0000000000000 := by decide +kernel

/-- IEEE-754 arithmetic on finite operands: 10 − 0.5, 0.1 + 0.2, 1 ÷ 3, 0.1 × 3, and the signs of exact zeros. -/
theorem test_finite_arithmetic :
    sub64 0 0x4024000000000000 0x3FE0000000000000 = 0x4023000000000000 ∧
    add64 0 0x3FB999999999999A 0x3FC999999999999A = 0x3FD3333333333334 ∧
    div64 0 0x3FF0000000000000 0x4008000000000000 = 0x3FD5555555555555 ∧
    mul64 0 0x3FB999999999999A 0x4008000000000000 = 0x3FD3333333333334 ∧
    sub64 7 0x3FF0000000000000 0x3FF0000000000000 = 0 ∧
    add64 7 0x8000000000000000 0x8000000000000000 = 0x8000000000000000 := by decide +kernel

theorem witness_ArithmeticSpecialValues :
    datum64 0xFFF0000000000000 = .inf true ∧ datum64 0x7FF0000000000000 = .inf false ∧ datum64 0 = .fin false 0 ∧
    datum64 0x8000000000000000 = .fin true 0 ∧ isNaN64 0xFFFFFFFFFFFFFFFF = true ∧ datum64 1 = .fin false 1 ∧ 0 < 1 := by
  decide +kernel

theorem witness_DrawsRangeOverTheNaNs : isNaN64 0xFFF0000000000001 = true ∧ isNaN32 0x7F800001 = true := by
  decide +kernel

/-- Each kind's bounds. -/
theorem witness_IntegersRoundTrip :
    (withVal (rne64 (-2147483648))).val = rne64 (-2147483648) ∧ (withVal (rne64 4294967295)).val = rne64 4294967295 ∧
    (withVal (rne64 (-32768))).val = rne64 (-32768) ∧ (-2147483648 : Int) ≤ -32768 ∧ (-32768 : Int) ≤ -32768 ∧
    (0 : Int) ≤ 65535 ∧ (65535 : Int) ≤ 65535 ∧ (0 : Int) ≤ 4294967295 := by decide +kernel

theorem witness_Float32RoundTrip : isNaN32 0xFF800000 = false ∧ isNaN32 0x80000001 = false := by decide +kernel

/-- Finite, infinite and NaN operands, the two zeros among them. -/
theorem witness_ComparisonsFollowExactValues :
    datum64 0x8000000000000000 = .fin true 0 ∧ datum64 0 = .fin false 0 ∧ datum64 0xFFF0000000000000 = .inf true ∧
    datum64 0x7FF0000000000000 = .inf false ∧ isNaN64 0x7FF0000000000001 = true := by decide +kernel

end Sys2Proof.Tests
end

section
/-! SUPPORT. What a command writes, as data: every command's answer is its effect on the state it runs in, and the
effect is a function of the operand registers (10_state.md R39). The statements about all commands follow. -/

namespace Sys2Proof.Machine

open Sys2Proof.Config

/-- What a command writes: `STATUS`, a result or none, output units or none, and how many NaN draws it takes. -/
structure Effect where
  status : BitVec 4
  result : Option (BitVec 64 × ResType) := none
  units : Option (List (BitVec 16)) := none
  draws : Nat := 0

/-- The state after the writes of an effect. -/
def Effect.apply (e : Effect) (s : State) : State :=
  { s with
    status := e.status
    res := (e.result.map Prod.fst).getD s.res
    resType := (e.result.map Prod.snd).getD s.resType
    out := (e.units.map (writeUnits s.out 0)).getD s.out
    outLen := (e.units.map fun us => BitVec.ofNat 9 us.length).getD s.outLen
    draws := s.draws + e.draws }

/-- The effect of a DEC of a numeric kind or Bool (41_decode.md R120). -/
def Effect.ofDecoded (d : Decoded) (draws : Nat := 0) : Effect :=
  { status := statusWord d.short false false, result := some (d.res, d.type), draws := draws }

/-- The effect of an ENC or ENCS of a numeric kind or Bool (42_encode.md R140, 43_scaler.md R175). -/
def Effect.ofEncoded (e : Encoded) (degen : Bool := false) (draws : Nat := 0) : Effect :=
  { status := statusWord false degen e.sat, units := some e.units, draws := draws }

/-- The effect of a command that leaves a scaled value in `RES` (43_scaler.md R165 to R167). -/
def Effect.ofScaled (e : Scaled) (short : Bool := false) : Effect :=
  { status := statusWord short e.degen e.sat, result := some (e.value, .f64), draws := 1 }

/-- The effect of a DECS command: the decode's value through `toF64` and `toEng` (43_scaler.md R167). -/
def Effect.ofDecs (d : Decoded) (s : State) : Effect := .ofScaled (toEng s (toF64 d.res d.type)) d.short

/-- The effect of an ENCS command: the encode of `toRaw` of `VAL` (43_scaler.md R175). -/
def Effect.ofEncs (encoded : BitVec 64 → State → Encoded) (s : State) : Effect :=
  .ofEncoded (encoded (toRaw s s.val).value s) (toRaw s s.val).degen 1

/-- The effect of each command. -/
def effect : Instr → State → Effect
  | .nop, _ => { status := statusWord false false false }
  | .decI16 _ _ off, s => .ofDecoded (decodedI16 off s)
  | .decU16 _ _ off, s => .ofDecoded (decodedU16 off s)
  | .decI32 bo wo off, s => .ofDecoded (decodedI32 bo wo off s)
  | .decU32 bo wo off, s => .ofDecoded (decodedU32 bo wo off s)
  | .decI64 bo wo off, s => .ofDecoded (decodedI64 bo wo off s)
  | .decU64 bo wo off, s => .ofDecoded (decodedU64 bo wo off s)
  | .decF32 bo wo off, s => .ofDecoded (decodedF32 bo wo off s) 1
  | .decF64 bo wo off, s => .ofDecoded (decodedF64 bo wo off s)
  | .decBool _ _ _, s => .ofDecoded ⟨if unitAt s 0 = 0 then 0 else 1, .bool, unitMissing s 0⟩
  | .decStr _ _ off n, s =>
    { status := statusWord (fetchShort s off n) false false, result := some (BitVec.ofNat 64 n, .str),
      units := some (fetchUnits s off n) }
  | .encI16 _ _, s => .ofEncoded (encodedI16 s.val s)
  | .encU16 _ _, s => .ofEncoded (encodedU16 s.val s)
  | .encI32 bo wo, s => .ofEncoded (encodedI32 bo wo s.val s)
  | .encU32 bo wo, s => .ofEncoded (encodedU32 bo wo s.val s)
  | .encI64 bo wo, s => .ofEncoded (encodedI64 bo wo s.val s)
  | .encU64 bo wo, s => .ofEncoded (encodedU64 bo wo s.val s)
  | .encF32 bo wo, s => .ofEncoded (encodedF32 bo wo s.val s) false 1
  | .encF64 bo wo, s => .ofEncoded (encodedF64 bo wo s.val s)
  | .encBool _ _, s => .ofEncoded ⟨[if isNaN64 s.val || !eq64 s.val 0 then 1 else 0], false⟩
  | .encStr _ _ off n, s =>
    { status := statusWord (fetchShort s off n) false false, units := some (fetchUnits s off n) }
  | .toEng, s => .ofScaled (toEng s s.val)
  | .toRaw, s => .ofScaled (toRaw s s.val)
  | .decsI16 _ _ off, s => .ofDecs (decodedI16 off s) s
  | .decsU16 _ _ off, s => .ofDecs (decodedU16 off s) s
  | .decsI32 bo wo off, s => .ofDecs (decodedI32 bo wo off s) s
  | .decsU32 bo wo off, s => .ofDecs (decodedU32 bo wo off s) s
  | .decsI64 bo wo off, s => .ofDecs (decodedI64 bo wo off s) s
  | .decsU64 bo wo off, s => .ofDecs (decodedU64 bo wo off s) s
  | .decsF32 bo wo off, s => .ofDecs (decodedF32 bo wo off s) s
  | .decsF64 bo wo off, s => .ofDecs (decodedF64 bo wo off s) s
  | .encsI16 _ _, s => .ofEncs encodedI16 s
  | .encsU16 _ _, s => .ofEncs encodedU16 s
  | .encsI32 bo wo, s => .ofEncs (encodedI32 bo wo) s
  | .encsU32 bo wo, s => .ofEncs (encodedU32 bo wo) s
  | .encsI64 bo wo, s => .ofEncs (encodedI64 bo wo) s
  | .encsU64 bo wo, s => .ofEncs (encodedU64 bo wo) s
  | .encsF32 bo wo, s => .ofEncs (encodedF32 bo wo) s
  | .encsF64 bo wo, s => .ofEncs (encodedF64 bo wo) s

/-- Every command completes, and what it leaves is its effect on the state. -/
theorem exec_eq_apply_effect (i : Instr) (s : State) : exec i s = .next ((effect i s).apply s) := by cases i <;> rfl

/-- The operand registers, the draw counter and the parameters of a state, every other field as after reset. -/
def State.operands (s : State) : State :=
  { State.reset with
    ctrl := s.ctrl, scfg := s.scfg, rawLen := s.rawLen, rawLo := s.rawLo, rawHi := s.rawHi, engLo := s.engLo,
    engHi := s.engHi, val := s.val, unit := s.unit, draws := s.draws, cfg := s.cfg }

/-- A command's effect is a function of the operands alone (10_state.md R39). -/
theorem effect_operands (i : Instr) (s : State) : effect i s.operands = effect i s := by cases i <;> rfl

theorem operands_eq_of_sameOperands {s t : State} (h : Claims.SameOperands s t) : s.operands = t.operands := by
  obtain ⟨hctrl, hscfg, hlen, hrl, hrh, hel, heh, hval, hunit, hdraws, hcfg⟩ := h
  simp only [State.operands, hctrl, hscfg, hlen, hrl, hrh, hel, heh, hval, hunit, hdraws, hcfg]

theorem effect_eq_of_sameOperands (i : Instr) {s t : State} (h : Claims.SameOperands s t) :
    effect i s = effect i t := by
  rw [← effect_operands, operands_eq_of_sameOperands h, effect_operands]

@[simp] theorem Effect.apply_cfg (e : Effect) (s : State) : (e.apply s).cfg = s.cfg := rfl

/-- No command changes an operand, once its draw is given back. -/
theorem operands_apply_undrawn (e : Effect) (s : State) :
    State.operands { e.apply s with draws := s.draws } = s.operands := rfl

/-- The same writes a second time change nothing (20_memory.md R56). -/
theorem Effect.apply_apply_undrawn (e : Effect) (s : State) :
    e.apply { e.apply s with draws := s.draws } = e.apply s := by
  obtain ⟨status, result, units, draws⟩ := e
  cases result <;> cases units <;> simp [Effect.apply, writeUnits_idem]

theorem exec_cfg {i : Instr} {s t : State} (h : exec i s = .next t) : t.cfg = s.cfg := by
  rw [exec_eq_apply_effect] at h
  cases h
  exact Effect.apply_cfg _ s

@[simp] theorem writeReg_cfg (r : Reg) (v : BitVec 32) (s : State) : (writeReg r v s).cfg = s.cfg := by
  cases r <;> rfl

@[simp] theorem raiseBusErr_cfg (isRead : Bool) (s : State) : (raiseBusErr isRead s).cfg = s.cfg := rfl

@[simp] theorem setResetLine_cfg (asserted : Bool) (s : State) : (setResetLine asserted s).cfg = s.cfg := by
  obtain ⟨_, h⟩ | ⟨_, _, h⟩ | ⟨_, _, h⟩ := setResetLine_cases asserted s
  · rw [h]
  · rw [h]; rfl
  · rw [h]

theorem runCommand_cfg {w : BitVec 32} {s t : State} (h : runCommand w s = .next t) : t.cfg = s.cfg := by
  obtain ⟨i, _, hrun⟩ | ⟨_, _, hrun⟩ := runCommand_cases w s <;> rw [hrun] at h
  · exact exec_cfg h
  · cases h; rfl

theorem busWrite_cfg {off : Nat} {v : BitVec 32} {s t : State} (h : busWrite off v s = .next t) : t.cfg = s.cfg := by
  obtain ⟨_, hw⟩ | ⟨_, hw⟩ := busWrite_cases off v s <;> rw [hw] at h
  · exact (runCommand_cfg h :)
  · cases h; simp

/-- No host event changes a parameter (00_scope.md R6). -/
theorem serve_cfg {e : HostEvent} {s t : State} (h : serve e s = .next t) : t.cfg = s.cfg := by
  cases e with
  | read off width =>
    obtain ⟨_, hs⟩ | ⟨_, _, _, hs⟩ | ⟨_, _, hs⟩ := serve_read_cases off width s <;> rw [hs] at h
    · cases h
    · cases h; simp
    · cases h; simp
  | write off width v =>
    obtain ⟨_, hs⟩ | ⟨_, _, _, hs⟩ | ⟨_, _, hs⟩ := serve_write_cases off width v s <;> rw [hs] at h
    · cases h
    · simpa using busWrite_cfg h
    · cases h; simp
  | resetLine asserted => cases h; simp

/-- Settles O26, by the cases of a step: the host's next event is served or there is none. -/
theorem noStepChangesParameters : Obligations.NoStepChangesParameters := by
  intro s t h
  obtain ⟨_, hs⟩ | ⟨e, rest, _, hs⟩ := step_cases s <;> rw [hs] at h
  · cases h; rfl
  · exact (serve_cfg h :)

/-- Settles O27: the second run has the same operands, hence the same effect, and an effect's writes are absolute. -/
theorem repeatedCommandChangesNothing : Obligations.RepeatedCommandChangesNothing := by
  intro i s t h
  rw [exec_eq_apply_effect] at h
  cases h
  have same : effect i { (effect i s).apply s with draws := s.draws } = effect i s := by
    rw [← effect_operands, operands_apply_undrawn, effect_operands]
  rw [exec_eq_apply_effect, same, Effect.apply_apply_undrawn]

/-- An effect leaves the same result in every state, or leaves each state's own. -/
theorem Effect.apply_res (e : Effect) (s s' : State) :
    (e.apply s).res = (e.apply s').res ∧ (e.apply s).resType = (e.apply s').resType ∨
      ((e.apply s).res = s.res ∧ (e.apply s).resType = s.resType ∧
        (e.apply s').res = s'.res ∧ (e.apply s').resType = s'.resType) := by
  unfold Effect.apply
  cases e.result with
  | none => exact .inr ⟨rfl, rfl, rfl, rfl⟩
  | some r => exact .inl ⟨rfl, rfl⟩

/-- An effect leaves the same output length in every state, or leaves each state's own. -/
theorem Effect.apply_outLen (e : Effect) (s s' : State) :
    (e.apply s).outLen = (e.apply s').outLen ∨ (e.apply s).outLen = s.outLen ∧ (e.apply s').outLen = s'.outLen := by
  unfold Effect.apply
  cases e.units with
  | none => exact .inr ⟨rfl, rfl⟩
  | some us => exact .inl rfl

/-- An effect leaves the same unit at an index of `OUT[]` in every state, or leaves each state's own. -/
theorem Effect.apply_out_getElem (e : Effect) (s s' : State) (j : Nat) (hj : j < 256) :
    (e.apply s).out[j] = (e.apply s').out[j] ∨ (e.apply s).out[j] = s.out[j] ∧ (e.apply s').out[j] = s'.out[j] := by
  unfold Effect.apply
  cases e.units with
  | none => exact .inr ⟨rfl, rfl⟩
  | some us =>
    have written (r : State) : (writeUnits r.out 0 us)[j] = us[j]?.getD r.out[j] := putUnits_getElem r us j hj
    simp only [Option.map_some, Option.getD_some, written]
    cases us[j]? with
    | none => exact .inr ⟨rfl, rfl⟩
    | some u => exact .inl rfl

/-- Settles O28: both states have the same operands, so the command has one effect in both. -/
theorem commandsSeeOnlyTheirOperands : Obligations.CommandsSeeOnlyTheirOperands := by
  intro i s s' h
  have hdraws : s.draws = s'.draws := (congrArg State.draws (operands_eq_of_sameOperands h) :)
  have same := effect_eq_of_sameOperands i h
  refine ⟨(effect i s).apply s, (effect i s).apply s', exec_eq_apply_effect i s, same ▸ exec_eq_apply_effect i s',
    rfl, congrArg (· + (effect i s).draws) hdraws, ?_, ?_, ?_⟩
  · exact Effect.apply_res _ s s'
  · exact Effect.apply_outLen _ s s'
  · exact Effect.apply_out_getElem _ s s'

end Sys2Proof.Machine
end

section
/-! SUPPORT. Each binary64 operation of 40_datapath.md R100 by its kinds of operands, one equation per case; the quiet
comparisons likewise; and which patterns are NaNs (00_scope.md R12). -/

namespace Sys2Proof.Machine

open Sys2Proof.Claims

/-- The statements' exact value of a finite datum is the model's. -/
theorem exactValue_eq_signed (neg : Bool) (m : Nat) : exactValue neg m = signed neg m := rfl

theorem isNaN64_iff (b : BitVec 64) : isNaN64 b = true ↔ datum64 b = .nan := by simp [isNaN64]

theorem isNaN32_iff (b : BitVec 32) : isNaN32 b = true ↔ datum32 b = .nan := by simp [isNaN32]

section Operations
variable {nan a b : BitVec 64} {s t : Bool} {m k : Nat}

theorem add64_inf_same (ha : datum64 a = .inf s) (hb : datum64 b = .inf s) : add64 nan a b = inf64 s := by
  simp [add64, ha, hb]

theorem add64_inf_opposite (ha : datum64 a = .inf s) (hb : datum64 b = .inf (!s)) : add64 nan a b = nan := by
  simp [add64, ha, hb]

theorem add64_inf_fin (ha : datum64 a = .inf s) (hb : datum64 b = .fin t k) : add64 nan a b = inf64 s := by
  simp [add64, ha, hb]

theorem add64_fin_inf (ha : datum64 a = .fin s m) (hb : datum64 b = .inf t) : add64 nan a b = inf64 t := by
  simp [add64, ha, hb]

theorem add64_nan (h : isNaN64 a = true ∨ isNaN64 b = true) : add64 nan a b = nan := by
  rw [isNaN64_iff, isNaN64_iff] at h
  obtain ha | hb := h
  · simp [add64, ha]
  · cases ha : datum64 a <;> simp [add64, ha, hb]

theorem mul64_inf_inf (ha : datum64 a = .inf s) (hb : datum64 b = .inf t) : mul64 nan a b = inf64 (s ^^ t) := by
  simp [mul64, ha, hb]

theorem mul64_inf_fin (ha : datum64 a = .inf s) (hb : datum64 b = .fin t k) :
    mul64 nan a b = if k = 0 then nan else inf64 (s ^^ t) := by
  simp [mul64, ha, hb]

theorem mul64_fin_inf (ha : datum64 a = .fin s m) (hb : datum64 b = .inf t) :
    mul64 nan a b = if m = 0 then nan else inf64 (s ^^ t) := by
  simp [mul64, ha, hb]

theorem mul64_nan (h : isNaN64 a = true ∨ isNaN64 b = true) : mul64 nan a b = nan := by
  rw [isNaN64_iff, isNaN64_iff] at h
  obtain ha | hb := h
  · simp [mul64, ha]
  · cases ha : datum64 a <;> simp [mul64, ha, hb]

theorem div64_inf_inf (ha : datum64 a = .inf s) (hb : datum64 b = .inf t) : div64 nan a b = nan := by
  simp [div64, ha, hb]

theorem div64_inf_fin (ha : datum64 a = .inf s) (hb : datum64 b = .fin t k) : div64 nan a b = inf64 (s ^^ t) := by
  simp [div64, ha, hb]

theorem div64_fin_inf (ha : datum64 a = .fin s m) (hb : datum64 b = .inf t) :
    div64 nan a b = round64 (s ^^ t) 0 1 := by
  simp [div64, ha, hb]

theorem div64_fin_zero (ha : datum64 a = .fin s m) (hb : datum64 b = .fin t 0) :
    div64 nan a b = if m = 0 then nan else inf64 (s ^^ t) := by
  simp [div64, ha, hb]

theorem div64_nan (h : isNaN64 a = true ∨ isNaN64 b = true) : div64 nan a b = nan := by
  rw [isNaN64_iff, isNaN64_iff] at h
  obtain ha | hb := h
  · simp [div64, ha]
  · cases ha : datum64 a <;> simp [div64, ha, hb]

theorem datum64_neg64_inf (h : datum64 b = .inf t) : datum64 (neg64 b) = .inf (!t) := by rw [datum64_neg64, h]

theorem datum64_neg64_fin (h : datum64 b = .fin t k) : datum64 (neg64 b) = .fin (!t) k := by rw [datum64_neg64, h]

theorem isNaN64_neg64 (h : isNaN64 b = true) : isNaN64 (neg64 b) = true := by
  rw [isNaN64_iff] at h ⊢
  rw [datum64_neg64, h]

theorem sub64_nan (h : isNaN64 a = true ∨ isNaN64 b = true) : sub64 nan a b = nan :=
  add64_nan (h.imp_right isNaN64_neg64)

theorem lt64_fin_fin (ha : datum64 a = .fin s m) (hb : datum64 b = .fin t k) :
    lt64 a b = true ↔ exactValue s m < exactValue t k := by
  simp [lt64, ha, hb, exactValue_eq_signed]

theorem eq64_fin_fin (ha : datum64 a = .fin s m) (hb : datum64 b = .fin t k) :
    eq64 a b = true ↔ exactValue s m = exactValue t k := by
  simp [eq64, ha, hb, exactValue_eq_signed]

theorem lt64_inf_inf (ha : datum64 a = .inf s) (hb : datum64 b = .inf t) : lt64 a b = (s && !t) := by
  simp [lt64, ha, hb]

theorem eq64_inf_inf (ha : datum64 a = .inf s) (hb : datum64 b = .inf t) : eq64 a b = (s == t) := by
  simp [eq64, ha, hb]

theorem lt64_inf_fin (ha : datum64 a = .inf s) (hb : datum64 b = .fin t k) : lt64 a b = s := by
  simp [lt64, ha, hb]

theorem lt64_fin_inf (ha : datum64 a = .fin s m) (hb : datum64 b = .inf t) : lt64 a b = !t := by
  simp [lt64, ha, hb]

theorem eq64_inf_fin (ha : datum64 a = .inf s) (hb : datum64 b = .fin t k) : eq64 a b = false := by
  simp [eq64, ha, hb]

theorem eq64_fin_inf (ha : datum64 a = .fin s m) (hb : datum64 b = .inf t) : eq64 a b = false := by
  simp [eq64, ha, hb]

theorem eq64_nan (h : isNaN64 a = true ∨ isNaN64 b = true) : eq64 a b = false := by
  rw [isNaN64_iff, isNaN64_iff] at h
  obtain ha | hb := h
  · simp [eq64, ha]
  · cases ha : datum64 a <;> simp [eq64, ha, hb]

end Operations

/-! Which patterns are NaNs (00_scope.md R12). -/

theorem Format.signWeight_eq (f : Format) : f.signWeight = 2 ^ f.fracBits * 2 ^ f.expBits := by
  rw [Format.signWeight, Nat.pow_add, Nat.mul_comm]

theorem Format.signWeight_pos (f : Format) : 0 < f.signWeight := Nat.two_pow_pos _

/-- The NaNs of a format lie above its infinity, the sign bit apart (00_scope.md R12). -/
theorem decode_eq_nan_iff (f : Format) (b : Nat) : f.decode b = .nan ↔ f.infPattern < b % f.signWeight := by
  have hlt := Nat.mod_lt b (Nat.two_pow_pos f.fracBits)
  have hex := Nat.mod_lt (b / 2 ^ f.fracBits) (Nat.two_pow_pos f.expBits)
  rw [Format.signWeight_eq, Nat.mod_mul, Format.infPattern, Nat.mul_comm]
  unfold Format.decode
  generalize b / 2 ^ f.fracBits % 2 ^ f.expBits = ex at hex ⊢
  by_cases hmax : ex = 2 ^ f.expBits - 1
  · by_cases hz : b % 2 ^ f.fracBits = 0 <;> simp [hmax, hz, Nat.pos_iff_ne_zero]
  · have below : 2 ^ f.fracBits * (ex + 1) ≤ 2 ^ f.fracBits * (2 ^ f.expBits - 1) := Nat.mul_le_mul_left _ (by omega)
    have : ¬ 2 ^ f.fracBits * (2 ^ f.expBits - 1) < b % 2 ^ f.fracBits + 2 ^ f.fracBits * ex := by
      rw [Nat.mul_add, Nat.mul_one] at below; omega
    rw [if_neg hmax, iff_false_right this]
    split <;> simp

/-- The pattern with its sign bit set apart. -/
theorem withSign_sign_mod (f : Format) (b : Nat) (h : b < 2 * f.signWeight) :
    f.withSign (b / f.signWeight % 2 == 1) (b % f.signWeight) = b := by
  have hdm := Nat.div_add_mod b f.signWeight
  have hsign : b / f.signWeight < 2 := Nat.div_lt_of_lt_mul (by rwa [Nat.mul_comm] at h)
  obtain h0 | h1 := Nat.le_one_iff_eq_zero_or_eq_one.1 (Nat.le_of_lt_succ hsign)
  · rw [h0, Nat.mul_zero] at hdm
    rw [h0]; exact hdm
  · rw [h1, Nat.mul_one] at hdm
    rw [h1]; exact hdm

theorem withSign_mod (f : Format) (neg : Bool) {m : Nat} (h : m < f.signWeight) :
    f.withSign neg m % f.signWeight = m := by
  cases neg <;> simp [Format.withSign, Nat.mod_eq_of_lt h]

theorem withSign_lt (f : Format) (neg : Bool) {m : Nat} (h : m < f.signWeight) :
    f.withSign neg m < 2 * f.signWeight := by
  cases neg <;> simp [Format.withSign] <;> omega

theorem infPattern_add (f : Format) : f.infPattern + 2 ^ f.fracBits = f.signWeight := by
  have : 2 ^ f.expBits - 1 + 1 = 2 ^ f.expBits := Nat.sub_add_cancel Nat.one_le_two_pow
  rw [Format.infPattern, Format.signWeight_eq, Nat.mul_comm, ← Nat.mul_succ, Nat.succ_eq_add_one, this]

/-- The sign and the fraction that `nanOf` puts together: the magnitude lies above infinity's and below the sign bit. -/
theorem nanOf_eq_withSign (f : Format) (hf : 0 < f.fracBits) (raw : Nat) :
    ∃ m, f.infPattern < m ∧ m < f.signWeight ∧ f.nanOf raw = f.withSign (raw / f.signWeight % 2 == 1) m := by
  have hlt := Nat.mod_lt raw (Nat.two_pow_pos f.fracBits)
  have htwo : 2 ^ 1 ≤ 2 ^ f.fracBits := Nat.pow_le_pow_right (by decide) hf
  have hadd := infPattern_add f
  refine ⟨_, ?_, ?_, rfl⟩ <;> split <;> omega

/-- Whatever the free bits, `nanOf` makes a NaN of the format of them (00_scope.md R13). -/
theorem decode_nanOf (f : Format) (hf : 0 < f.fracBits) (raw : Nat) :
    f.decode (f.nanOf raw) = .nan ∧ f.nanOf raw < 2 * f.signWeight := by
  obtain ⟨m, hinf, hm, h⟩ := nanOf_eq_withSign f hf raw
  rw [h, decode_eq_nan_iff, withSign_mod f _ hm]
  exact ⟨hinf, withSign_lt f _ hm⟩

/-- A NaN pattern is what `nanOf` makes of its own bits (00_scope.md R13). -/
theorem nanOf_eq_self (f : Format) (b : Nat) (hb : b < 2 * f.signWeight) (h : f.decode b = .nan) : f.nanOf b = b := by
  rw [decode_eq_nan_iff] at h
  have hadd := infPattern_add f
  have hlt := Nat.mod_lt b f.signWeight_pos
  have hfrac : b % 2 ^ f.fracBits = b % f.signWeight - f.infPattern := by
    have hdvd : 2 ^ f.fracBits ∣ f.signWeight := ⟨_, f.signWeight_eq⟩
    rw [← Nat.mod_mod_of_dvd b hdvd, ← Nat.add_sub_of_le h.le, Format.infPattern, Nat.mul_add_mod_self_right,
      Nat.add_sub_cancel_left]
    exact Nat.mod_eq_of_lt (by rw [← Format.infPattern]; omega)
  have hmag : f.infPattern + (if b % 2 ^ f.fracBits = 0 then 1 else b % 2 ^ f.fracBits) = b % f.signWeight := by
    rw [if_neg (by omega)]; omega
  unfold Format.nanOf
  dsimp only
  rw [hmag, withSign_sign_mod f b hb]

/-- Settles O55, one equation of the operations for each case. -/
theorem arithmeticSpecialValues : Obligations.ArithmeticSpecialValues := by
  intro nan a b s t m
  refine ⟨fun ha hb => ?infSame, fun ha hb => ?infOpposite, fun ha hb => ?zeroTimesInf, fun ha hb => ?zeroByZero,
    fun ha hb => ?infInf, fun h => ⟨add64_nan h, sub64_nan h, mul64_nan h, div64_nan h⟩, fun ha hm hb => ?byZero,
    fun ha hb => ?finInf, fun ha hm hb => ?nonzeroTimesInf⟩
  case infSame => exact ⟨add64_inf_opposite ha (datum64_neg64_inf hb), by rw [add64_inf_same ha hb, datum64_inf64]⟩
  case infOpposite =>
    have hneg : datum64 (neg64 b) = .inf s := by rw [datum64_neg64_inf hb, Bool.not_not]
    exact ⟨add64_inf_opposite ha hb, by rw [sub64, add64_inf_same ha hneg, datum64_inf64]⟩
  case zeroTimesInf => exact ⟨by rw [mul64_fin_inf ha hb, if_pos rfl], by rw [mul64_inf_fin hb ha, if_pos rfl]⟩
  case zeroByZero => rw [div64_fin_zero ha hb, if_pos rfl]
  case infInf => exact ⟨div64_inf_inf ha hb, by rw [mul64_inf_inf ha hb, datum64_inf64]⟩
  case byZero => rw [div64_fin_zero ha hb, if_neg hm.ne', datum64_inf64]
  case finInf =>
    refine ⟨?_, ?_, ?_, ?_, ?_, ?_⟩
    · rw [add64_fin_inf ha hb, datum64_inf64]
    · rw [add64_inf_fin hb ha, datum64_inf64]
    · rw [sub64, add64_fin_inf ha (datum64_neg64_inf hb), datum64_inf64]
    · rw [sub64, add64_inf_fin hb (datum64_neg64_fin ha), datum64_inf64]
    · rw [div64_fin_inf ha hb, datum64_round64_zero]
    · rw [div64_inf_fin hb ha, datum64_inf64, Bool.xor_comm]
  case nonzeroTimesInf =>
    constructor
    · rw [mul64_fin_inf ha hb, if_neg hm.ne', datum64_inf64]
    · rw [mul64_inf_fin hb ha, if_neg hm.ne', datum64_inf64, Bool.xor_comm]

/-- Settles O56: `nanOf` yields NaNs only and leaves each of them as it is. -/
theorem drawsRangeOverTheNaNs : Obligations.DrawsRangeOverTheNaNs := by
  refine ⟨fun n => ⟨?_, ?_⟩, fun b h => ?_, fun b h => ?_⟩
  · obtain ⟨hnan, hlt⟩ := decode_nanOf binary64 (by decide) (Config.freeBits64 n).toNat
    rw [isNaN64_iff, datum64, drawNaN64, BitVec.toNat_ofNat, Nat.mod_eq_of_lt (b := 2 ^ 64) hlt, hnan]
  · obtain ⟨hnan, hlt⟩ := decode_nanOf binary32 (by decide) (Config.freeBits32 n).toNat
    rw [isNaN32_iff, datum32, drawNaN32, BitVec.toNat_ofNat, Nat.mod_eq_of_lt (b := 2 ^ 32) hlt, hnan]
  · rw [nanOf_eq_self binary64 b.toNat b.isLt ((isNaN64_iff b).1 h), BitVec.ofNat_toNat, BitVec.setWidth_eq]
  · rw [nanOf_eq_self binary32 b.toNat b.isLt ((isNaN32_iff b).1 h), BitVec.ofNat_toNat, BitVec.setWidth_eq]

/-- Settles O60, one equation of the comparisons for each case. -/
theorem comparisonsFollowExactValues : Obligations.ComparisonsFollowExactValues := by
  intro a b s t m k
  refine ⟨fun ha hb => ⟨lt64_fin_fin ha hb, eq64_fin_fin ha hb⟩, fun ha hb => ?infInf, fun ha hb => ?infFin,
    fun h => ⟨?ltNan, eq64_nan h⟩, ?zerosEqual, ?zerosNotLess, ?nanPattern⟩
  case infInf =>
    rw [lt64_inf_inf ha hb, eq64_inf_inf ha hb]
    simp
  case infFin =>
    rw [lt64_inf_fin ha hb, lt64_fin_inf hb ha, Bool.not_eq_true']
    exact ⟨Iff.rfl, Iff.rfl, eq64_inf_fin ha hb, eq64_fin_inf hb ha⟩
  case ltNan => exact h.elim (fun ha => (lt64_nan a b ha).1) (fun hb => (lt64_nan b a hb).2)
  case zerosEqual => decide
  case zerosNotLess => decide
  case nanPattern => rw [isNaN64_iff, datum64, decode_eq_nan_iff, binary64_infPattern, binary64_signWeight]

end Sys2Proof.Machine
end

section
/-! SUPPORT. The engineering clamp (43_scaler.md R161) with its bounds in order and out of order, from the order of
`<64`. -/

namespace Sys2Proof.Machine

section Clamp
variable {e a b : BitVec 64}

/-- Bounds that are not out of order clamp as they are declared. -/
theorem clampEng_ordered (h : lt64 b a = false) :
    clampEng e a b = if lt64 e a then (a, true) else if lt64 b e then (b, true) else (e, false) := by
  simp [clampEng, h]

/-- Bounds out of order are exchanged (43_scaler.md R161). -/
theorem clampEng_swap (h : lt64 b a = true) : clampEng e a b = clampEng e b a := by
  simp [clampEng, h, lt64_asymm b a h]

/-- Below the low bound a value becomes it. -/
theorem clampEng_below (h : lt64 b a = false) (he : lt64 e a = true) : clampEng e a b = (a, true) := by
  simp [clampEng_ordered h, he]

/-- Above the high bound a value becomes it. -/
theorem clampEng_above (h : lt64 b a = false) (he : lt64 b e = true) (ha : lt64 e a = false) :
    clampEng e a b = (b, true) := by
  simp [clampEng_ordered h, he, ha]

/-- A value beyond neither bound passes. -/
theorem clampEng_inside (h : lt64 b a = false) (ha : lt64 e a = false) (hb : lt64 b e = false) :
    clampEng e a b = (e, false) := by
  simp [clampEng_ordered h, ha, hb]

/-- A value below both bounds becomes the smaller one, whichever is declared low. -/
theorem clampEng_below_both (ha : lt64 e a = true) (hb : lt64 e b = true) :
    clampEng e a b = (if lt64 b a then b else a, true) := by
  cases h : lt64 b a with
  | false => exact clampEng_below h ha
  | true => rw [clampEng_swap h]; exact clampEng_below (lt64_asymm b a h) hb

/-- A value above both bounds becomes the larger one, whichever is declared low. -/
theorem clampEng_above_both (ha : lt64 a e = true) (hb : lt64 b e = true) :
    clampEng e a b = (if lt64 b a then a else b, true) := by
  cases h : lt64 b a with
  | false => exact clampEng_above h hb (lt64_asymm a e ha)
  | true => rw [clampEng_swap h]; exact clampEng_above (lt64_asymm b a h) ha (lt64_asymm b e hb)

/-- What bounds in order clamp lies beyond both of them. -/
theorem beyond_both_of_clampEng_ordered (h : lt64 b a = false) (hna : isNaN64 a = false) (hnb : isNaN64 b = false)
    (hsat : (clampEng e a b).2 = true) :
    (lt64 e a = true ∧ lt64 e b = true) ∨ (lt64 a e = true ∧ lt64 b e = true) := by
  by_cases hlow : lt64 e a = true
  · exact .inl ⟨hlow, (lt64_cut e b a hnb hlow).resolve_right (by simp [h])⟩
  · by_cases hhigh : lt64 b e = true
    · exact .inr ⟨(lt64_cut b a e hna hhigh).resolve_left (by simp [h]), hhigh⟩
    · rw [Bool.not_eq_true] at hlow hhigh
      rw [clampEng_inside h hlow hhigh] at hsat
      cases hsat

/-- SAT says exactly that the value lies beyond both bounds (43_scaler.md R161). -/
theorem clampEng_saturates_iff (hna : isNaN64 a = false) (hnb : isNaN64 b = false) :
    (clampEng e a b).2 = true ↔
      (lt64 e a = true ∧ lt64 e b = true) ∨ (lt64 a e = true ∧ lt64 b e = true) := by
  constructor
  · intro hsat
    cases h : lt64 b a with
    | false => exact beyond_both_of_clampEng_ordered h hna hnb hsat
    | true =>
      rw [clampEng_swap h] at hsat
      exact (beyond_both_of_clampEng_ordered (lt64_asymm b a h) hnb hna hsat).imp And.symm And.symm
  · rintro (⟨ha, hb⟩ | ⟨ha, hb⟩)
    · rw [clampEng_below_both ha hb]
    · rw [clampEng_above_both ha hb]

/-- Exchanging the bounds does not change SAT. -/
theorem clampEng_comm_sat (hna : isNaN64 a = false) (hnb : isNaN64 b = false) :
    (clampEng e b a).2 = (clampEng e a b).2 := by
  rw [Bool.eq_iff_iff, clampEng_saturates_iff hna hnb, clampEng_saturates_iff hnb hna, and_comm (a := lt64 e a = true),
    and_comm (a := lt64 a e = true)]

/-- Without SAT the value is unchanged. -/
theorem clampEng_unsaturated (h : (clampEng e a b).2 = false) : (clampEng e a b).1 = e := by
  revert h
  fun_cases clampEng e a b <;> simp_all

/-- With SAT the result is one of the bounds. -/
theorem clampEng_saturated (hna : isNaN64 a = false) (hnb : isNaN64 b = false) (h : (clampEng e a b).2 = true) :
    (clampEng e a b).1 = a ∨ (clampEng e a b).1 = b := by
  obtain ⟨ha, hb⟩ | ⟨ha, hb⟩ := (clampEng_saturates_iff hna hnb).1 h
  · rw [clampEng_below_both ha hb]; exact (ite_eq_or_eq _ b a).symm
  · rw [clampEng_above_both ha hb]; exact ite_eq_or_eq _ a b

/-- The result lies between the bounds, whichever is declared low. -/
theorem clampEng_between (hna : isNaN64 a = false) (hnb : isNaN64 b = false) :
    (lt64 (clampEng e a b).1 a = false ∨ lt64 (clampEng e a b).1 b = false) ∧
      (lt64 a (clampEng e a b).1 = false ∨ lt64 b (clampEng e a b).1 = false) := by
  cases hsat : (clampEng e a b).2 with
  | false =>
    have notBeyond := (clampEng_saturates_iff hna hnb).not.1 (Bool.not_eq_true _ ▸ hsat)
    rw [clampEng_unsaturated hsat]
    simpa only [not_or, not_and_or, Bool.not_eq_true] using notBeyond
  | true =>
    obtain h | h := clampEng_saturated hna hnb hsat <;> rw [h]
    · exact ⟨.inl (lt64_irrefl a), .inl (lt64_irrefl a)⟩
    · exact ⟨.inr (lt64_irrefl b), .inr (lt64_irrefl b)⟩

theorem eq64_refl (h : isNaN64 a = false) : eq64 a a = true :=
  eq64_of_not_lt64 a a h h (lt64_irrefl a) (lt64_irrefl a)

/-- The smaller and the larger of two values do not depend on their order, a zero's sign apart. -/
theorem eq64_smaller_larger_comm (hna : isNaN64 a = false) (hnb : isNaN64 b = false) :
    eq64 (if lt64 b a then b else a) (if lt64 a b then a else b) = true ∧
      eq64 (if lt64 b a then a else b) (if lt64 a b then b else a) = true := by
  cases hba : lt64 b a with
  | true => simp [lt64_asymm b a hba, eq64_refl hna, eq64_refl hnb]
  | false =>
    cases hab : lt64 a b with
    | true => simp [eq64_refl hna, eq64_refl hnb]
    | false => simp [eq64_of_not_lt64 a b hna hnb hab hba, eq64_of_not_lt64 b a hnb hna hba hab]

/-- Exchanging the bounds does not change the result's value. -/
theorem clampEng_comm_value (hne : isNaN64 e = false) (hna : isNaN64 a = false) (hnb : isNaN64 b = false) :
    eq64 (clampEng e a b).1 (clampEng e b a).1 = true := by
  obtain ⟨smaller, larger⟩ := eq64_smaller_larger_comm hna hnb
  cases hsat : (clampEng e a b).2 with
  | false =>
    have hsat' : (clampEng e b a).2 = false := (clampEng_comm_sat hna hnb).trans hsat
    rw [clampEng_unsaturated hsat, clampEng_unsaturated hsat', eq64_refl hne]
  | true =>
    obtain ⟨ha, hb⟩ | ⟨ha, hb⟩ := (clampEng_saturates_iff hna hnb).1 hsat
    · rw [clampEng_below_both ha hb, clampEng_below_both hb ha, smaller]
    · rw [clampEng_above_both ha hb, clampEng_above_both hb ha, larger]

theorem clampEng_nan (h : isNaN64 e = true) : clampEng e a b = (e, false) := by
  have below (c : BitVec 64) : lt64 e c = false := (lt64_nan e c h).1
  have above (c : BitVec 64) : lt64 c e = false := (lt64_nan e c h).2
  simp [clampEng, below, above]

/-- With a NaN bound no comparison of the bounds is true, so they stand as declared (43_scaler.md R161, R33). -/
theorem not_lt64_of_nan_bound (h : isNaN64 a = true ∨ isNaN64 b = true) : lt64 b a = false :=
  h.elim (fun ha => (lt64_nan a b ha).2) (fun hb => (lt64_nan b a hb).1)

/-- A value is not beyond both bounds when one of them is a NaN. -/
theorem not_below_of_above_nan_bound (h : isNaN64 a = true ∨ isNaN64 b = true) (hb : lt64 b e = true) :
    lt64 e a = false := by
  obtain ha | hb' := h
  · exact (lt64_nan a e ha).2
  · rw [(lt64_nan b e hb').1] at hb
    cases hb

end Clamp

/-- Settles O44, each clause by a lemma about the clamp. -/
theorem engineeringClampBounds : Obligations.EngineeringClampBounds := by
  intro e a b r r'
  refine ⟨clampEng_nan, fun hna hnb => ⟨clampEng_below_both, clampEng_above_both, clampEng_comm_sat hna hnb⟩,
    fun hne hna hnb => ?noNaN, fun h => ?nanBound, clampEng_unsaturated⟩
  case noNaN =>
    obtain ⟨hlow, hhigh⟩ := clampEng_between (e := e) hna hnb
    exact ⟨hlow, hhigh, clampEng_saturates_iff hna hnb, clampEng_comm_value hne hna hnb⟩
  case nanBound =>
    have declared := not_lt64_of_nan_bound h
    exact ⟨clampEng_below declared, fun hb => clampEng_above declared hb (not_below_of_above_nan_bound h hb),
      clampEng_inside declared⟩

end Sys2Proof.Machine
end

section
/-! SUPPORT. `roundMag` before overflow: the pattern it forms is a binade number and a rounded significand, the
magnitudes of patterns grow strictly, and the pattern's magnitude is nearest to the exact quotient (00_scope.md R12). -/

namespace Sys2Proof.Machine

/-- The two sides of `roundDivEven`: within one half of the quotient, and even on a tie. -/
theorem roundDivEven_spec (n d : Nat) (hd : 0 < d) :
    2 * n ≤ 2 * (roundDivEven n d * d) + d ∧ 2 * (roundDivEven n d * d) ≤ 2 * n + d ∧
      (2 * n = 2 * (roundDivEven n d * d) + d ∨ 2 * (roundDivEven n d * d) = 2 * n + d →
        roundDivEven n d % 2 = 0) := by
  have hdm := Nat.div_add_mod' n d
  have hr := Nat.mod_lt n hd
  fun_cases roundDivEven n d with
  | case1 q r h => simp only [q, r] at *; omega
  | case2 q r h h' => simp only [q, r, Nat.add_mul, Nat.one_mul] at *; omega
  | case3 q r h h' =>
    simp only [q, r] at *
    obtain h2 | h2 := Nat.mod_two_eq_zero_or_one (n / d)
    · rw [h2, Nat.add_zero]; omega
    · rw [h2, Nat.add_mul, Nat.one_mul]; omega

/-- A pattern as binade number and significand: `sh` binades of `2 ^ fracBits` patterns below it, and a significand that
may already be where the next binade begins. -/
theorem magOf_binade (f : Format) (sh k : Nat) (hlow : sh = 0 ∨ 2 ^ f.fracBits ≤ k)
    (hhigh : k ≤ 2 * 2 ^ f.fracBits) : f.magOf (sh * 2 ^ f.fracBits + k) = k * 2 ^ sh := by
  have hp : 0 < 2 ^ f.fracBits := Nat.two_pow_pos _
  unfold Format.magOf
  generalize 2 ^ f.fracBits = p at *
  rw [Nat.mul_add_mod_self_right, Nat.add_comm, Nat.add_mul_div_right _ _ hp]
  obtain hk | hk | hk : k < p ∨ (p ≤ k ∧ k < 2 * p) ∨ k = 2 * p := by omega
  · have : sh = 0 := by omega
    simp [this, Nat.div_eq_of_lt hk]
  · have hdiv : k / p = 1 := Nat.div_eq_of_lt_le (by omega) (by omega)
    have hmod : p + k % p = k := by have := Nat.div_add_mod k p; rw [hdiv] at this; omega
    simp [hdiv, hmod]
  · have hdiv : k / p = 2 := by rw [hk, Nat.mul_div_cancel _ hp]
    have hmod : k % p = 0 := by rw [hk, Nat.mul_mod_left]
    rw [hdiv, hmod, if_neg (by omega), hk, show 2 + sh - 1 = sh + 1 by omega, Nat.pow_succ]
    ring

/-- Every pattern has a binade number and a significand. -/
theorem exists_binade (f : Format) (q : Nat) :
    ∃ sh k, q = sh * 2 ^ f.fracBits + k ∧ (sh = 0 ∨ 2 ^ f.fracBits ≤ k) ∧ k < 2 * 2 ^ f.fracBits := by
  have hp : 0 < 2 ^ f.fracBits := Nat.two_pow_pos _
  have hdm := Nat.div_add_mod' q (2 ^ f.fracBits)
  have hr := Nat.mod_lt q hp
  rcases hq : q / 2 ^ f.fracBits with _ | sh <;> rw [hq] at hdm
  · exact ⟨0, q, by omega, .inl rfl, by omega⟩
  · rw [Nat.add_mul, Nat.one_mul] at hdm
    exact ⟨sh, 2 ^ f.fracBits + q % 2 ^ f.fracBits, by omega, .inr (by omega), by omega⟩

/-- A larger pattern has a larger magnitude. -/
theorem magOf_strictMono (f : Format) : StrictMono f.magOf := by
  refine strictMono_nat_of_lt_succ fun q => ?_
  obtain ⟨sh, k, rfl, hlow, hhigh⟩ := exists_binade f q
  rw [Nat.add_assoc, magOf_binade f sh k hlow hhigh.le, magOf_binade f sh (k + 1) (by omega) hhigh]
  exact Nat.mul_lt_mul_of_pos_right k.lt_succ_self (Nat.two_pow_pos _)

/-- How far the quotient exceeds the precision (the `sh` of `roundMag`). -/
def Format.excess (f : Format) (n d : Nat) : Nat := Nat.log2 (n / d) - f.fracBits

/-- The rounded significand (the integer `roundMag` rounds to). -/
def Format.significand (f : Format) (n d : Nat) : Nat := roundDivEven n (d * 2 ^ f.excess n d)

/-- The pattern `roundMag` forms before it looks for overflow. -/
def Format.unbounded (f : Format) (n d : Nat) : Nat := f.excess n d * 2 ^ f.fracBits + f.significand n d

theorem roundMag_eq_min (f : Format) (n d : Nat) : f.roundMag n d = min (f.unbounded n d) f.infPattern := rfl

/-- The quotient lies in the binade `excess` names. -/
theorem excess_spec (f : Format) (n d : Nat) (hd : 0 < d) :
    n < 2 * 2 ^ f.fracBits * (d * 2 ^ f.excess n d) ∧
      (f.excess n d = 0 ∨ 2 ^ f.fracBits * (d * 2 ^ f.excess n d) ≤ n) := by
  have upper : n / d < 2 ^ (f.fracBits + 1 + f.excess n d) :=
    Nat.lt_log2_self.trans_le (Nat.pow_le_pow_right (by decide) (by unfold Format.excess; omega))
  constructor
  · rw [Nat.div_lt_iff_lt_mul hd] at upper
    calc n < 2 ^ (f.fracBits + 1 + f.excess n d) * d := upper
      _ = 2 * 2 ^ f.fracBits * (d * 2 ^ f.excess n d) := by ring
  · by_cases hz : f.excess n d = 0
    · exact .inl hz
    · refine .inr ?_
      have hexp : f.fracBits + f.excess n d = (n / d).log2 := by unfold Format.excess at hz ⊢; omega
      have hpos : n / d ≠ 0 := fun h => hz (by simp [Format.excess, h])
      have lower := Nat.log2_self_le hpos
      rw [← hexp, Nat.le_div_iff_mul_le hd] at lower
      calc 2 ^ f.fracBits * (d * 2 ^ f.excess n d) = 2 ^ (f.fracBits + f.excess n d) * d := by ring
        _ ≤ n := lower

/-- The significand fills the precision, unless the quotient is subnormal, and at most carries into the next binade. -/
theorem significand_bounds (f : Format) (n d : Nat) (hd : 0 < d) :
    (f.excess n d = 0 ∨ 2 ^ f.fracBits ≤ f.significand n d) ∧ f.significand n d ≤ 2 * 2 ^ f.fracBits := by
  obtain ⟨hhigh, hlow⟩ := excess_spec f n d hd
  have hD : 0 < d * 2 ^ f.excess n d := Nat.mul_pos hd (Nat.two_pow_pos _)
  obtain ⟨habove, hbelow, _⟩ := roundDivEven_spec n _ hD
  rw [← Format.significand] at habove hbelow
  generalize f.significand n d = k at *
  generalize d * 2 ^ f.excess n d = D at *
  refine ⟨hlow.imp_right fun h => ?_, ?_⟩
  · by_contra hk
    have := Nat.mul_le_mul_right D (show k + 1 ≤ 2 ^ f.fracBits by omega)
    rw [Nat.add_mul] at this; omega
  · by_contra hk
    have := Nat.mul_le_mul_right D (show 2 * 2 ^ f.fracBits + 1 ≤ k by omega)
    rw [Nat.add_mul] at this; omega

/-- The magnitude of the pattern formed, in units of `1 / d`. -/
theorem magOf_unbounded (f : Format) (n d : Nat) (hd : 0 < d) :
    f.magOf (f.unbounded n d) * d = f.significand n d * (d * 2 ^ f.excess n d) := by
  obtain ⟨hlow, hhigh⟩ := significand_bounds f n d hd
  rw [Format.unbounded, magOf_binade f _ _ hlow hhigh]
  ring

/-- A quotient that is a whole number of units in the last place is kept. -/
theorem magOf_unbounded_of_dvd (f : Format) (n d : Nat) (hd : 0 < d) (h : d * 2 ^ f.excess n d ∣ n) :
    f.magOf (f.unbounded n d) * d = n := by
  obtain ⟨k, hk⟩ := h
  have hsig : f.significand n d = k := by
    rw [Format.significand]
    generalize f.excess n d = sh at hk ⊢
    rw [hk, Nat.mul_comm, roundDivEven_mul _ _ (Nat.mul_pos hd (Nat.two_pow_pos _))]
  rw [magOf_unbounded f n d hd, hsig, Nat.mul_comm, ← hk]

section Neighbours
variable (f : Format) (n d : Nat) {q : Nat}

/-- Where the quotient was rounded up, a smaller pattern is at least a unit in the last place below. -/
theorem magOf_below_unbounded (hd : 0 < d) (hup : n < f.significand n d * (d * 2 ^ f.excess n d))
    (hq : q < f.unbounded n d) :
    f.magOf q * d + d * 2 ^ f.excess n d ≤ f.significand n d * (d * 2 ^ f.excess n d) := by
  obtain ⟨_, hlow⟩ := excess_spec f n d hd
  obtain ⟨_, hhigh⟩ := significand_bounds f n d hd
  obtain ⟨k, hk⟩ : ∃ k, f.significand n d = k + 1 := Nat.exists_eq_succ_of_ne_zero fun h => by simp [h] at hup
  have hnormal : f.excess n d = 0 ∨ 2 ^ f.fracBits ≤ k := hlow.imp_right fun h => by
    have := lt_of_mul_lt_mul_right (h.trans_lt hup) (Nat.zero_le _); omega
  have hle : f.magOf q ≤ k * 2 ^ f.excess n d := by
    rw [← magOf_binade f _ k hnormal (by omega)]
    exact (magOf_strictMono f).monotone (by unfold Format.unbounded at hq; omega)
  calc f.magOf q * d + d * 2 ^ f.excess n d ≤ k * 2 ^ f.excess n d * d + d * 2 ^ f.excess n d :=
        Nat.add_le_add_right (Nat.mul_le_mul_right d hle) _
    _ = f.significand n d * (d * 2 ^ f.excess n d) := by rw [hk]; ring

/-- Where the quotient was rounded down, a larger pattern is at least a unit in the last place above. -/
theorem magOf_above_unbounded (hd : 0 < d) (hdown : f.significand n d * (d * 2 ^ f.excess n d) < n)
    (hq : f.unbounded n d < q) :
    f.significand n d * (d * 2 ^ f.excess n d) + d * 2 ^ f.excess n d ≤ f.magOf q * d := by
  obtain ⟨hhigh, _⟩ := excess_spec f n d hd
  obtain ⟨hlow, _⟩ := significand_bounds f n d hd
  have hroom : f.significand n d + 1 ≤ 2 * 2 ^ f.fracBits :=
    lt_of_mul_lt_mul_right (hdown.trans hhigh) (Nat.zero_le _)
  have hle : (f.significand n d + 1) * 2 ^ f.excess n d ≤ f.magOf q := by
    rw [← magOf_binade f _ (f.significand n d + 1) (by omega) hroom]
    exact (magOf_strictMono f).monotone hq
  calc f.significand n d * (d * 2 ^ f.excess n d) + d * 2 ^ f.excess n d =
        (f.significand n d + 1) * 2 ^ f.excess n d * d := by ring
    _ ≤ f.magOf q * d := Nat.mul_le_mul_right d hle

end Neighbours

/-- The distance of a pattern's magnitude from the exact quotient, in units of `1 / d` smallest subnormals. -/
def Format.error (f : Format) (n d q : Nat) : Int := |(f.magOf q * d : Int) - n|

/-- The pattern formed is nearest to the quotient among all patterns, and even if another is as near. -/
theorem unbounded_nearest (f : Format) (hf : 0 < f.fracBits) (n d q : Nat) (hd : 0 < d) :
    f.error n d (f.unbounded n d) ≤ f.error n d q ∧
      (f.error n d (f.unbounded n d) = f.error n d q → q = f.unbounded n d ∨ f.unbounded n d % 2 = 0) := by
  have hD : 0 < d * 2 ^ f.excess n d := Nat.mul_pos hd (Nat.two_pow_pos _)
  obtain ⟨habove, hbelow, htie⟩ := roundDivEven_spec n _ hD
  rw [← Format.significand] at habove hbelow htie
  have heven : f.significand n d % 2 = 0 → f.unbounded n d % 2 = 0 := fun h => by
    obtain ⟨F, hF⟩ := Nat.exists_eq_succ_of_ne_zero hf.ne'
    rw [Format.unbounded, hF, Nat.pow_succ, ← Nat.mul_assoc, Nat.mul_add_mod_self_right, h]
  have hmag := magOf_unbounded f n d hd
  have hup := magOf_below_unbounded f n d (q := q) hd
  have hdown := magOf_above_unbounded f n d (q := q) hd
  simp only [Format.error, Int.abs_eq_natAbs, ← Nat.cast_mul, hmag]
  obtain hq | hq | hq := Nat.lt_trichotomy q (f.unbounded n d)
  · have hlt : f.magOf q * d < f.magOf (f.unbounded n d) * d := Nat.mul_lt_mul_of_pos_right (magOf_strictMono f hq) hd
    omega
  · subst hq; rw [hmag]; omega
  · have hlt : f.magOf (f.unbounded n d) * d < f.magOf q * d := Nat.mul_lt_mul_of_pos_right (magOf_strictMono f hq) hd
    omega

end Sys2Proof.Machine
end

section
/-! SUPPORT. Where rounding overflows (00_scope.md R12), and the finite cases of the binary64 operations (40_datapath.md
R100, R103). -/

namespace Sys2Proof.Machine

open Sys2Proof.Claims

/-- The midpoint above the largest finite magnitude, where roundTiesToEven begins to overflow
(notes/assumptions/11.md). -/
def Format.overflowThreshold (f : Format) : Nat := (2 ^ (f.fracBits + 2) - 1) * 2 ^ (2 ^ f.expBits - 4)

/-- The threshold is as far from the largest finite magnitude as from the magnitude infinity's pattern stands for. -/
theorem overflowThreshold_midpoint (f : Format) (hE : 2 ≤ f.expBits) :
    f.magOf (f.infPattern - 1) + 2 ^ (2 ^ f.expBits - 4) = f.overflowThreshold ∧
      f.overflowThreshold + 2 ^ (2 ^ f.expBits - 4) = f.magOf f.infPattern := by
  have hp : 0 < 2 ^ f.fracBits := Nat.two_pow_pos _
  have hfour : 2 ^ 2 ≤ 2 ^ f.expBits := Nat.pow_le_pow_right (by decide) hE
  obtain ⟨e, he⟩ : ∃ e, 2 ^ f.expBits = e + 4 := ⟨2 ^ f.expBits - 4, by omega⟩
  have hinf : f.infPattern = (e + 2) * 2 ^ f.fracBits + 2 ^ f.fracBits := by
    rw [Format.infPattern, he, show e + 4 - 1 = e + 3 by omega]; ring
  have hlast : f.infPattern - 1 = (e + 1) * 2 ^ f.fracBits + (2 * 2 ^ f.fracBits - 1) := by
    rw [hinf, Nat.add_mul, Nat.add_mul]; omega
  rw [hlast, hinf, magOf_binade f _ _ (.inr (by omega)) (by omega), magOf_binade f _ _ (.inr le_rfl) (by omega),
    Format.overflowThreshold, he, Nat.add_sub_cancel, show 2 ^ (f.fracBits + 2) = 4 * 2 ^ f.fracBits by ring]
  obtain ⟨p, hp'⟩ := Nat.exists_eq_succ_of_ne_zero hp.ne'
  rw [hp', show 2 * p.succ - 1 = 2 * p + 1 by omega, show 4 * p.succ - 1 = 4 * p + 3 by omega, Nat.succ_eq_add_one]
  constructor <;> ring

section Overflow
variable {f : Format} {n d : Nat}

theorem infPattern_even (hF : 0 < f.fracBits) : f.infPattern % 2 = 0 := by
  obtain ⟨F, hF'⟩ := Nat.exists_eq_succ_of_ne_zero hF.ne'
  rw [Format.infPattern, hF', Nat.pow_succ, ← Nat.mul_assoc, Nat.mul_mod_left]

theorem infPattern_pos (hE : 2 ≤ f.expBits) : 0 < f.infPattern := by
  have : 2 ^ 2 ≤ 2 ^ f.expBits := Nat.pow_le_pow_right (by decide) hE
  exact Nat.mul_pos (by omega) (Nat.two_pow_pos _)

/-- The threshold's place between the last finite pattern and infinity's, in units of `1 / d`. -/
theorem overflowThreshold_midpoint_mul (hE : 2 ≤ f.expBits) (hd : 0 < d) :
    ∃ h, 0 < h ∧ f.magOf (f.infPattern - 1) * d + h = f.overflowThreshold * d ∧
      f.overflowThreshold * d + h = f.magOf f.infPattern * d := by
  obtain ⟨hlow, hhigh⟩ := overflowThreshold_midpoint f hE
  refine ⟨2 ^ (2 ^ f.expBits - 4) * d, Nat.mul_pos (Nat.two_pow_pos _) hd, ?_, ?_⟩
  · rw [← hlow, Nat.add_mul]
  · rw [← hhigh, Nat.add_mul]

/-- From the threshold on infinity's pattern is nearer, or the even one of two equally near. -/
theorem infPattern_le_unbounded (hF : 0 < f.fracBits) (hE : 2 ≤ f.expBits) (hd : 0 < d)
    (h : f.overflowThreshold * d ≤ n) : f.infPattern ≤ f.unbounded n d := by
  by_contra hlt
  obtain ⟨u, hu, hlow, hhigh⟩ := overflowThreshold_midpoint_mul (f := f) hE hd
  obtain ⟨hnear, htie⟩ := unbounded_nearest f hF n d f.infPattern hd
  have heven := infPattern_even hF
  simp only [Format.error, Int.abs_eq_natAbs, ← Nat.cast_mul] at hnear htie
  obtain hq | hq : f.unbounded n d = f.infPattern - 1 ∨ f.unbounded n d < f.infPattern - 1 := by omega
  · rw [hq] at hnear htie; omega
  · have := Nat.mul_lt_mul_of_pos_right (magOf_strictMono f hq) hd
    omega

/-- Below the threshold the last finite pattern is nearer than infinity's and any above. -/
theorem unbounded_lt_infPattern (hF : 0 < f.fracBits) (hE : 2 ≤ f.expBits) (hd : 0 < d)
    (h : n < f.overflowThreshold * d) : f.unbounded n d < f.infPattern := by
  by_contra hge
  obtain ⟨u, hu, hlow, hhigh⟩ := overflowThreshold_midpoint_mul (f := f) hE hd
  obtain ⟨hnear, _⟩ := unbounded_nearest f hF n d (f.infPattern - 1) hd
  have := Nat.mul_le_mul_right d ((magOf_strictMono f).monotone (Nat.le_of_not_lt hge))
  simp only [Format.error, Int.abs_eq_natAbs, ← Nat.cast_mul] at hnear
  omega

/-- Overflow goes to infinity. -/
theorem roundMag_overflow (hF : 0 < f.fracBits) (hE : 2 ≤ f.expBits) (hd : 0 < d)
    (h : f.overflowThreshold * d ≤ n) : f.roundMag n d = f.infPattern := by
  rw [roundMag_eq_min, Nat.min_eq_right (infPattern_le_unbounded hF hE hd h)]

/-- Without overflow the pattern formed is the result, and it is finite. -/
theorem roundMag_finite (hF : 0 < f.fracBits) (hE : 2 ≤ f.expBits) (hd : 0 < d)
    (h : n < f.overflowThreshold * d) : f.roundMag n d = f.unbounded n d ∧ f.roundMag n d < f.infPattern := by
  have hlt := unbounded_lt_infPattern hF hE hd h
  have heq : f.roundMag n d = f.unbounded n d := by rw [roundMag_eq_min, Nat.min_eq_left hlt.le]
  exact ⟨heq, heq ▸ hlt⟩

/-- The statements' magnitude of a finite pattern is the model's. -/
theorem exactMag_eq_magOf {q : Nat} (h : q < f.infPattern) : exactMag f q = f.magOf q := by
  have := decode_finite f false q h
  rw [show f.withSign false q = q from Nat.zero_add q] at this
  rw [exactMag, this]

/-- Below the threshold no finite pattern is nearer than the result, and of two equally near ones it is the even one. -/
theorem roundMag_nearest (hF : 0 < f.fracBits) (hE : 2 ≤ f.expBits) (hd : 0 < d)
    (h : n < f.overflowThreshold * d) {q : Nat} (hq : q < f.infPattern) :
    |(exactMag f (f.roundMag n d) * d : Int) - n| ≤ |(exactMag f q * d : Int) - n| ∧
      (|(exactMag f (f.roundMag n d) * d : Int) - n| = |(exactMag f q * d : Int) - n| →
        q = f.roundMag n d ∨ f.roundMag n d % 2 = 0) := by
  obtain ⟨heq, hlt⟩ := roundMag_finite hF hE hd h
  rw [exactMag_eq_magOf hlt, exactMag_eq_magOf hq, heq]
  exact unbounded_nearest f hF n d q hd

end Overflow

theorem format_fields {f : Format} (h : f = binary32 ∨ f = binary64) : 0 < f.fracBits ∧ 2 ≤ f.expBits := by
  obtain rfl | rfl := h <;> decide

/-! The operations on finite operands. -/

theorem rounded64_eq_round64 (neg : Bool) (n d : Nat) : rounded64 neg n d = round64 neg n d := by
  rw [rounded64, round64, Format.withSign, binary64_signWeight]

theorem signed_not (neg : Bool) (m : Nat) : signed (!neg) m = -signed neg m := by
  cases neg <;> simp [signed]

section Finite
variable {nan a b : BitVec 64} {s t : Bool} {m k : Nat}

/-- The sum is rounded once; an exact zero sum is +0 unless both summands are negative (notes/assumptions/11.md). -/
theorem add64_fin_fin (ha : datum64 a = .fin s m) (hb : datum64 b = .fin t k) :
    add64 nan a b = round64 (decide (signed s m + signed t k < 0) || (decide (signed s m + signed t k = 0) && s && t))
      (signed s m + signed t k).natAbs 1 := by
  simp only [add64, ha, hb]
  by_cases hz : signed s m + signed t k = 0
  · simp [hz]
  · simp [hz]

theorem sub64_fin_fin (ha : datum64 a = .fin s m) (hb : datum64 b = .fin t k) :
    sub64 nan a b = round64 (decide (signed s m - signed t k < 0) || (decide (signed s m - signed t k = 0) && s && !t))
      (signed s m - signed t k).natAbs 1 := by
  rw [sub64, add64_fin_fin ha (datum64_neg64_fin hb), signed_not, ← Int.sub_eq_add_neg]

theorem mul64_fin_fin (ha : datum64 a = .fin s m) (hb : datum64 b = .fin t k) :
    mul64 nan a b = round64 (s ^^ t) (m * k) (2 ^ 1074) := by
  simp only [mul64, ha, hb, binary64_one]

theorem div64_fin_fin (ha : datum64 a = .fin s m) (hb : datum64 b = .fin t k) (hk : 0 < k) :
    div64 nan a b = round64 (s ^^ t) (m * 2 ^ 1074) k := by
  simp only [div64, ha, hb, if_neg hk.ne', binary64_one]

end Finite

/-- Settles O53: the rounding by `roundMag_overflow`, `roundMag_finite` and `roundMag_nearest`, each operation by its
equation on finite operands. -/
theorem roundingIsNearestTiesToEven : Obligations.RoundingIsNearestTiesToEven := by
  constructor
  · intro f n d hf hd
    obtain ⟨hF, hE⟩ := format_fields hf
    exact ⟨roundMag_overflow hF hE hd,
      fun h => ⟨(roundMag_finite hF hE hd h).2, fun q hq => roundMag_nearest hF hE hd h hq⟩⟩
  · intro nan a b s t m k ha hb
    simp only [rounded64_eq_round64]
    exact ⟨add64_fin_fin ha hb, sub64_fin_fin ha hb, mul64_fin_fin ha hb, div64_fin_fin ha hb⟩

/-! RNE64 of an integer (40_datapath.md R103). -/

/-- A finite rounding is read back as the magnitude it rounds to. -/
theorem datum64_round64 (neg : Bool) {n d : Nat} (h : binary64.roundMag n d < binary64.infPattern) :
    datum64 (round64 neg n d) = .fin neg (binary64.magOf (binary64.roundMag n d)) := by
  have hlt : binary64.withSign neg (binary64.roundMag n d) < 2 ^ 64 :=
    withSign_lt binary64 neg (h.trans (by decide))
  rw [datum64, round64, BitVec.toNat_ofNat, Nat.mod_eq_of_lt hlt, decode_finite binary64 neg _ h]

theorem rne64_eq (x : Int) : rne64 x = round64 (decide (x < 0)) (x.natAbs * 2 ^ 1074) 1 := by
  rw [rne64, binary64_one]

theorem mul_two_pow_lt {k i z e : Nat} (h : k < 2 ^ i) (he : i + z ≤ e) : k * 2 ^ z < 2 ^ e :=
  calc k * 2 ^ z < 2 ^ i * 2 ^ z := Nat.mul_lt_mul_of_pos_right h (Nat.two_pow_pos _)
    _ = 2 ^ (i + z) := (Nat.pow_add ..).symm
    _ ≤ 2 ^ e := Nat.pow_le_pow_right (by decide) he

/-- An integer below 2^64 is far below the overflow threshold. -/
theorem integer_lt_overflowThreshold {k : Nat} (h : k < 2 ^ 64) :
    k * 2 ^ 1074 < binary64.overflowThreshold * 1 := by
  have hpos : 0 < 2 ^ (binary64.fracBits + 2) - 1 := by decide
  have hlt : k * 2 ^ 1074 < 2 ^ (2 ^ binary64.expBits - 4) := mul_two_pow_lt h (by decide)
  rw [Nat.mul_one, Format.overflowThreshold]
  exact hlt.trans_le (Nat.le_mul_of_pos_left _ hpos)

/-- What fills the precision at most, scaled by a power of two, is a whole number of units in the last place. -/
theorem two_pow_excess_dvd (f : Format) {k : Nat} (z : Nat) (h : k ≤ 2 ^ (f.fracBits + 1)) :
    2 ^ f.excess (k * 2 ^ z) 1 ∣ k * 2 ^ z := by
  rw [Format.excess, Nat.div_one]
  obtain hlt | rfl := h.lt_or_eq
  · have hlog : (k * 2 ^ z).log2 < f.fracBits + 1 + z := by
      by_cases hz : k * 2 ^ z = 0
      · rw [hz, Nat.log2_zero]; omega
      · exact (Nat.log2_lt hz).2 (mul_two_pow_lt hlt le_rfl)
    exact (Nat.pow_dvd_pow 2 (by omega)).mul_left k
  · rw [← Nat.pow_add, Nat.log2_two_pow]
    exact Nat.pow_dvd_pow 2 (Nat.sub_le ..)

/-- Below 2^64 the rounding does not overflow, and no sign is lost. -/
theorem datum64_rne64_finite {x : Int} (h : |x| < 2 ^ 64) :
    datum64 (rne64 x) = .fin (decide (x < 0)) (binary64.magOf (binary64.unbounded (x.natAbs * 2 ^ 1074) 1)) := by
  obtain ⟨heq, hfin⟩ := roundMag_finite (f := binary64) (by decide) (by decide) Nat.one_pos
    (integer_lt_overflowThreshold (k := x.natAbs) (by rw [Int.abs_eq_natAbs] at h; exact_mod_cast h))
  rw [rne64_eq, datum64_round64 _ hfin, heq]

/-- Up to 2^53 the integer fits the precision, and nothing is rounded off (40_datapath.md R103). -/
theorem datum64_rne64_exact {x : Int} (h : |x| ≤ 2 ^ 53) :
    datum64 (rne64 x) = .fin (decide (x < 0)) (x.natAbs * 2 ^ 1074) := by
  have hdvd := two_pow_excess_dvd binary64 (k := x.natAbs) 1074 (by rw [Int.abs_eq_natAbs] at h; exact_mod_cast h)
  have hexact := magOf_unbounded_of_dvd binary64 (x.natAbs * 2 ^ 1074) 1 Nat.one_pos (by rwa [Nat.one_mul])
  rw [Nat.mul_one] at hexact
  rw [datum64_rne64_finite (h.trans_lt (by norm_num)), hexact]

/-- Settles O54, the three claims by `rne64_eq`, `datum64_rne64_exact` and `datum64_rne64_finite`. -/
theorem integersToTwoPow53AreExact : Obligations.IntegersToTwoPow53AreExact := by
  intro x
  refine ⟨?_, fun h => datum64_rne64_exact h, fun h => ⟨_, datum64_rne64_finite h⟩⟩
  rw [rounded64_eq_round64, rne64_eq]

end Sys2Proof.Machine
end

section
/-! SUPPORT. Which values a command can leave in the registers (10_state.md R29 to R31, R36; 60_exceptions.md R203): a
legal word holds a well-formed command, and the effect of a well-formed command is legal whatever the state. -/

namespace Sys2Proof

/-- A field is narrower than its width says (00_scope.md R8). -/
theorem wordField_lt (w : Word32) (lo n : Nat) : wordField w lo n < 2 ^ n := by
  rw [wordField_eq]; exact Nat.mod_lt _ (Nat.two_pow_pos n)

theorem requireZero_eq_ok {b : Bool} {i j : Instr} (h : requireZero b i = .ok j) : i = j := by
  cases b <;> simp [requireZero] at h
  exact h

section Fields
variable {kind slen off : Nat} {bo : ByteOrder} {wo : WordOrder} {i : Instr}

theorem decOf_wellFormed (hoff : off < 256) (hslen : slen < 256) (k : Kind) :
    (decOf bo wo off (slen + 1) k).WellFormed := by
  cases k <;> simp [decOf, Instr.WellFormed, Instr.wf, offsetOk, lengthOk, hoff]
  omega

theorem encOf_wellFormed (hoff : off < 256) (hslen : slen < 256) (k : Kind) :
    (encOf bo wo off (slen + 1) k).WellFormed := by
  cases k <;> simp [encOf, Instr.WellFormed, Instr.wf, offsetOk, lengthOk, hoff]
  omega

theorem decsOf_wellFormed (hoff : off < 256) {k : Kind} (h : decsOf bo wo off k = some i) : i.WellFormed := by
  cases k <;> cases h <;> simpa [Instr.WellFormed, Instr.wf, offsetOk] using hoff

theorem encsOf_wellFormed {k : Kind} (h : encsOf bo wo k = some i) : i.WellFormed := by
  cases k <;> cases h <;> rfl

theorem decodeDec_wellFormed (hoff : off < 256) (hslen : slen < 256)
    (h : decodeDec kind slen bo wo off = .ok i) : i.WellFormed := by
  unfold decodeDec at h
  cases hk : Kind.ofCode kind with
  | none => rw [hk] at h; cases h
  | some k =>
    simp only [hk] at h
    split at h
    · cases h; exact decOf_wellFormed hoff hslen k
    · cases requireZero_eq_ok h; exact decOf_wellFormed hoff hslen k

theorem decodeEnc_wellFormed (hoff : off < 256) (hslen : slen < 256)
    (h : decodeEnc kind slen bo wo off = .ok i) : i.WellFormed := by
  unfold decodeEnc at h
  cases hk : Kind.ofCode kind with
  | none => rw [hk] at h; cases h
  | some k =>
    simp only [hk] at h
    split at h
    · cases h; exact encOf_wellFormed hoff hslen k
    · cases requireZero_eq_ok h; exact encOf_wellFormed hoff hslen k

theorem decodeDecs_wellFormed (hoff : off < 256) (h : decodeDecs kind slen bo wo off = .ok i) : i.WellFormed := by
  unfold decodeDecs at h
  split at h
  · cases h
  · next hk =>
    obtain ⟨k, _, hk⟩ := Option.bind_eq_some_iff.1 hk
    cases requireZero_eq_ok h
    exact decsOf_wellFormed hoff hk

theorem decodeEncs_wellFormed (h : decodeEncs kind slen bo wo off = .ok i) : i.WellFormed := by
  unfold decodeEncs at h
  split at h
  · cases h
  · next hk =>
    obtain ⟨k, _, hk⟩ := Option.bind_eq_some_iff.1 hk
    cases requireZero_eq_ok h
    exact encsOf_wellFormed hk

/-- The decoder gives well-formed commands only (30_encoding.md R76, R77). -/
theorem decode_wellFormed {w : Word32} (h : decode w = .ok i) : i.WellFormed := by
  have hoff : wordField w 16 8 < 256 := wordField_lt w 16 8
  have hslen : wordField w 24 8 < 256 := wordField_lt w 24 8
  unfold decode at h
  dsimp only at h
  split at h
  · cases h
  · split at h
    · cases requireZero_eq_ok h; rfl
    · exact decodeDec_wellFormed hoff hslen h
    · exact decodeEnc_wellFormed hoff hslen h
    · cases requireZero_eq_ok h; rfl
    · cases requireZero_eq_ok h; rfl
    · exact decodeDecs_wellFormed hoff h
    · exact decodeEncs_wellFormed h
    · cases h

end Fields

end Sys2Proof

namespace Sys2Proof.Machine

/-- The values `RES` takes under each type (10_state.md R31). -/
def ResType.Fits : ResType → BitVec 64 → Prop
  | .none, v => v = 0
  | .bool, v => v = 0 ∨ v = 1
  | .str, v => 1 ≤ v.toNat ∧ v.toNat ≤ 256
  | .int, _ | .uint, _ | .f64, _ => True

theorem ResType.fits_iff (t : ResType) (v : BitVec 64) :
    t.Fits v ↔ (t = .none → v = 0) ∧ (t = .bool → v = 0 ∨ v = 1) ∧ (t = .str → 1 ≤ v.toNat ∧ v.toNat ≤ 256) := by
  cases t <;> simp [Fits]

theorem State.legal_iff (s : State) :
    s.Legal ↔ s.rawLen.toNat ≤ 256 ∧ s.outLen.toNat ≤ 256 ∧ (s.ill = true → s.status = 0x1#4) ∧
      s.resType.Fits s.res := by
  rw [ResType.fits_iff]

/-- What the spec lets a command write, whatever the state: no ILL (40_datapath.md R107), a typed result (10_state.md
R31) and 1 to 256 units (R36). -/
structure Effect.Legal (e : Effect) : Prop where
  ill : e.status[0] = false
  result : ∀ v t, e.result = some (v, t) → t ≠ .none ∧ t.Fits v
  units : ∀ us, e.units = some us → 1 ≤ us.length ∧ us.length ≤ 256

theorem Effect.ofDecoded_legal {d : Decoded} {n : Nat} (htype : d.type ≠ .none) (hres : d.type.Fits d.res) :
    (Effect.ofDecoded d n).Legal where
  ill := statusWord_ill ..
  result _ _ h := by cases h; exact ⟨htype, hres⟩
  units _ h := by cases h

/-- `RES` may hold any value of a numeric type (10_state.md R31). -/
theorem Effect.ofDecoded_legal_of_numeric {d : Decoded} {n : Nat} (h : d.type = .int ∨ d.type = .uint ∨ d.type = .f64) :
    (Effect.ofDecoded d n).Legal := by
  refine Effect.ofDecoded_legal (fun hnone => ?_) ?_
  · simp [hnone] at h
  · obtain h | h | h := h <;> simp [h, ResType.Fits]

theorem decodedI64_type (bo : ByteOrder) (wo : WordOrder) (off : Nat) (s : State) :
    (decodedI64 bo wo off s).type = .int ∨ (decodedI64 bo wo off s).type = .f64 := by
  unfold decodedI64
  cases s.int64Mode
  · exact .inr rfl
  · exact .inl rfl

theorem decodedU64_type (bo : ByteOrder) (wo : WordOrder) (off : Nat) (s : State) :
    (decodedU64 bo wo off s).type = .uint ∨ (decodedU64 bo wo off s).type = .f64 := by
  unfold decodedU64
  cases s.int64Mode
  · exact .inr rfl
  · exact .inl rfl

theorem Effect.ofEncoded_legal {e : Encoded} {degen : Bool} {n : Nat} (h : 1 ≤ e.units.length ∧ e.units.length ≤ 256) :
    (Effect.ofEncoded e degen n).Legal where
  ill := statusWord_ill ..
  result _ _ h := by cases h
  units _ hus := by cases hus; exact h

theorem Effect.ofScaled_legal (e : Scaled) (short : Bool) : (Effect.ofScaled e short).Legal where
  ill := statusWord_ill ..
  result _ _ h := by cases h; exact ⟨nofun, trivial⟩
  units _ h := by cases h

@[simp] theorem disassembled32_length (s : State) (bo : ByteOrder) (wo : WordOrder) (w : BitVec 32) :
    (disassembled32 s bo wo w).length = 2 := disassemble_length ..

@[simp] theorem disassembled64_length (s : State) (bo : ByteOrder) (wo : WordOrder) (w : BitVec 64) :
    (disassembled64 s bo wo w).length = 4 := disassemble_length ..

/-! How many units each encode gives (40_datapath.md R91). -/

section Lengths
variable (bo : ByteOrder) (wo : WordOrder) (v : BitVec 64) (s : State)

@[simp] theorem encodedI16_length : (encodedI16 v s).units.length = 1 := rfl
@[simp] theorem encodedU16_length : (encodedU16 v s).units.length = 1 := rfl
@[simp] theorem encodedI32_length : (encodedI32 bo wo v s).units.length = 2 := disassembled32_length ..
@[simp] theorem encodedU32_length : (encodedU32 bo wo v s).units.length = 2 := disassembled32_length ..
@[simp] theorem encodedI64_length : (encodedI64 bo wo v s).units.length = 4 := disassembled64_length ..
@[simp] theorem encodedU64_length : (encodedU64 bo wo v s).units.length = 4 := disassembled64_length ..
@[simp] theorem encodedF32_length : (encodedF32 bo wo v s).units.length = 2 := disassembled32_length ..
@[simp] theorem encodedF64_length : (encodedF64 bo wo v s).units.length = 4 := disassembled64_length ..

end Lengths

/-- A string length fits `RES` under the type STR (10_state.md R31). -/
theorem ResType.str_fits {n : Nat} (h : 1 ≤ n ∧ n ≤ 256) : ResType.str.Fits (BitVec.ofNat 64 n) := by
  rw [Fits, BitVec.toNat_ofNat, Nat.mod_eq_of_lt (by omega)]
  exact h

/-- The code of a truth value fits `RES` under the type BOOL (10_state.md R31). -/
theorem ResType.bool_fits (p : Prop) [Decidable p] : ResType.bool.Fits (if p then 0 else 1) := by
  split
  · exact .inl rfl
  · exact .inr rfl

/-- The effect of a well-formed command is legal in every state. -/
theorem effect_legal {i : Instr} (h : i.WellFormed) (s : State) : (effect i s).Legal := by
  cases i with
  | nop => exact ⟨statusWord_ill .., nofun, nofun⟩
  | decI16 | decI32 => exact Effect.ofDecoded_legal_of_numeric (.inl rfl)
  | decU16 | decU32 => exact Effect.ofDecoded_legal_of_numeric (.inr (.inl rfl))
  | decF32 | decF64 => exact Effect.ofDecoded_legal_of_numeric (.inr (.inr rfl))
  | decI64 => exact Effect.ofDecoded_legal_of_numeric ((decodedI64_type ..).imp_right .inr)
  | decU64 => exact Effect.ofDecoded_legal_of_numeric (.inr (decodedU64_type ..))
  | decBool => exact Effect.ofDecoded_legal nofun (ResType.bool_fits _)
  | decStr bo wo off n =>
    have hn : 1 ≤ n ∧ n ≤ 256 := by simp_all [Instr.WellFormed, Instr.wf, lengthOk]
    refine ⟨statusWord_ill .., fun _ _ hr => ?_, fun _ hus => ?_⟩
    · cases hr; exact ⟨nofun, ResType.str_fits hn⟩
    · cases hus; rwa [fetchUnits_length]
  | encStr bo wo off n =>
    have hn : 1 ≤ n ∧ n ≤ 256 := by simp_all [Instr.WellFormed, Instr.wf, lengthOk]
    refine ⟨statusWord_ill .., nofun, fun _ hus => ?_⟩
    cases hus; rwa [fetchUnits_length]
  | encI16 | encU16 | encI32 | encU32 | encI64 | encU64 | encF32 | encF64 | encBool =>
    exact Effect.ofEncoded_legal (by simp)
  | encsI16 | encsU16 | encsI32 | encsU32 | encsI64 | encsU64 | encsF32 | encsF64 =>
    exact Effect.ofEncoded_legal (by simp)
  | toEng | toRaw | decsI16 | decsU16 | decsI32 | decsU32 | decsI64 | decsU64 | decsF32 | decsF64 =>
    exact Effect.ofScaled_legal ..

/-! What an effect leaves in the registers it can write. -/

section Apply
variable {e : Effect} (s : State)

theorem Effect.apply_of_result_none (h : e.result = none) :
    (e.apply s).res = s.res ∧ (e.apply s).resType = s.resType := by
  simp [Effect.apply, h]

theorem Effect.apply_of_result_some {v : BitVec 64} {t : ResType} (h : e.result = some (v, t)) :
    (e.apply s).res = v ∧ (e.apply s).resType = t := by
  simp [Effect.apply, h]

theorem Effect.apply_of_units_none (h : e.units = none) :
    (e.apply s).out = s.out ∧ (e.apply s).outLen = s.outLen := by
  simp [Effect.apply, h]

theorem Effect.apply_of_units_some {us : List (BitVec 16)} (h : e.units = some us) :
    (e.apply s).out = writeUnits s.out 0 us ∧ (e.apply s).outLen = BitVec.ofNat 9 us.length := by
  simp [Effect.apply, h]

/-- A legal effect leaves `RES` and `RES_TYPE` or a typed result in them (41_decode.md R120). -/
theorem Effect.Legal.apply_result (he : e.Legal) :
    ((e.apply s).res = s.res ∧ (e.apply s).resType = s.resType) ∨
      ((e.apply s).resType ≠ .none ∧ (e.apply s).resType.Fits (e.apply s).res) := by
  cases h : e.result with
  | none => exact .inl (apply_of_result_none s h)
  | some r =>
    obtain ⟨hres, htype⟩ := apply_of_result_some s h
    rw [hres, htype]
    exact .inr (he.result _ _ h)

/-- A legal effect leaves `OUT[]` and `OUT_LEN` or writes a prefix of the length in `OUT_LEN` (40_datapath.md R106). -/
theorem Effect.Legal.apply_units (he : e.Legal) :
    ((e.apply s).out = s.out ∧ (e.apply s).outLen = s.outLen) ∨
      (1 ≤ (e.apply s).outLen.toNat ∧ (e.apply s).outLen.toNat ≤ 256 ∧
        ∀ j (_ : j < 256), (e.apply s).outLen.toNat ≤ j → (e.apply s).out[j] = s.out[j]) := by
  cases h : e.units with
  | none => exact .inl (apply_of_units_none s h)
  | some us =>
    obtain ⟨hout, hlen⟩ := apply_of_units_some s h
    obtain ⟨hpos, hmax⟩ := he.units us h
    have hnat : (e.apply s).outLen.toNat = us.length := by
      rw [hlen, BitVec.toNat_ofNat, Nat.mod_eq_of_lt (by omega)]
    rw [hnat]
    refine .inr ⟨hpos, hmax, fun j hj hle => ?_⟩
    have hrest : us[j]? = none := List.getElem?_eq_none hle
    simp only [hout, writeUnits_getElem us s.out 0 j hj, Nat.zero_le, if_true, Nat.sub_zero, hrest, Option.getD_none]

end Apply

/-- A legal effect keeps the registers' legal values. -/
theorem Effect.Legal.apply_legal {e : Effect} (he : e.Legal) {s : State} (hs : s.Legal) : (e.apply s).Legal := by
  obtain ⟨hraw, hout, _, hres⟩ := s.legal_iff.1 hs
  refine (State.legal_iff _).2 ⟨hraw, ?_, ?_, ?_⟩
  · obtain ⟨_, h⟩ | ⟨_, h, _⟩ := he.apply_units s
    · rwa [h]
    · exact h
  · intro hill
    have : e.status[0] = true := hill
    rw [he.ill] at this
    cases this
  · obtain ⟨h, h'⟩ | ⟨_, h⟩ := he.apply_result s
    · rwa [h, h']
    · exact h

theorem exec_legal {i : Instr} {s t : State} (hi : i.WellFormed) (hs : s.Legal) (h : exec i s = .next t) : t.Legal := by
  rw [exec_eq_apply_effect] at h
  cases h
  exact (effect_legal hi s).apply_legal hs

/-- ILL stands alone after ILL (60_exceptions.md R203). -/
theorem raiseIll_legal {s : State} (hs : s.Legal) : (raiseIll s).Legal := by
  obtain ⟨hraw, hout, _, hres⟩ := hs
  exact ⟨hraw, hout, fun _ => rfl, hres⟩

theorem writeReg_legal {s : State} (r : Reg) (v : BitVec 32) (hs : s.Legal) : (writeReg r v s).Legal := by
  cases r with
  | rawLen =>
    obtain ⟨_, hrest⟩ := hs
    refine ⟨?_, hrest⟩
    show (BitVec.ofNat 9 (min v.toNat 256)).toNat ≤ 256
    rw [BitVec.toNat_ofNat]
    omega
  | _ => exact hs

theorem runCommand_legal {w : BitVec 32} {s t : State} (hs : s.Legal) (h : runCommand w s = .next t) : t.Legal := by
  obtain ⟨i, hi, hrun⟩ | ⟨_, _, hrun⟩ := runCommand_cases w s <;> rw [hrun] at h
  · exact exec_legal (decode_wellFormed hi) hs h
  · cases h; exact raiseIll_legal hs

theorem busWrite_legal {off : Nat} {v : BitVec 32} {s t : State} (hs : s.Legal) (h : busWrite off v s = .next t) :
    t.Legal := by
  obtain ⟨_, hw⟩ | ⟨_, hw⟩ := busWrite_cases off v s <;> rw [hw] at h
  · exact runCommand_legal (s := { s with cmd := v }) hs h
  · cases h; exact writeReg_legal _ v hs

/-- Settles O21: every register is zero. -/
theorem resetStateIsLegal : Obligations.ResetStateIsLegal := by
  unfold Obligations.ResetStateIsLegal
  decide

theorem setResetLine_legal {s : State} (asserted : Bool) (hs : s.Legal) : (setResetLine asserted s).Legal := by
  obtain ⟨_, h⟩ | ⟨_, _, h⟩ | ⟨_, _, h⟩ := setResetLine_cases asserted s <;> rw [h]
  · exact hs
  · exact resetStateIsLegal
  · exact hs

/-- No host event takes a register out of its legal values. -/
theorem serve_legal {e : HostEvent} {s t : State} (hs : s.Legal) (h : serve e s = .next t) : t.Legal := by
  cases e with
  | read off width =>
    obtain ⟨_, hserve⟩ | ⟨_, _, _, hserve⟩ | ⟨_, _, hserve⟩ := serve_read_cases off width s <;> rw [hserve] at h
    · cases h
    · cases h; exact hs
    · cases h; exact hs
  | write off width v =>
    obtain ⟨_, hserve⟩ | ⟨_, _, _, hserve⟩ | ⟨_, _, hserve⟩ := serve_write_cases off width v s <;> rw [hserve] at h
    · cases h
    · exact busWrite_legal (s := s.respond .done) hs h
    · cases h; exact hs
  | resetLine asserted => cases h; exact setResetLine_legal asserted hs

/-- Settles O20, by the cases of a step: the host's next event is served or there is none. -/
theorem stepKeepsRegistersLegal : Obligations.StepKeepsRegistersLegal := by
  intro s t hs h
  obtain ⟨_, hstep⟩ | ⟨e, rest, _, hstep⟩ := step_cases s <;> rw [hstep] at h
  · cases h; exact hs
  · exact serve_legal (s := { s with pending := rest }) hs h

/-- Settles O24: an effect writes no other field. -/
theorem noCommandWritesItsOperands : Obligations.NoCommandWritesItsOperands := by
  intro i s t h
  rw [exec_eq_apply_effect] at h
  cases h
  rfl

/-- Settles O25: a well-formed command's effect is legal. -/
theorem commandsWriteAnOutputPrefix : Obligations.CommandsWriteAnOutputPrefix := by
  intro i s t hi h
  rw [exec_eq_apply_effect] at h
  cases h
  have he := effect_legal hi s
  exact ⟨he.apply_units s, (he.apply_result s).imp_right And.left⟩

end Sys2Proof.Machine
end

section
/-! SUPPORT. The register window (20_memory.md R50 to R56): the map is one to one on the aligned offsets of registers,
each slot reads its register in its layout, and a write reaches its own slot only. -/

namespace Sys2Proof.Machine

open Sys2Proof.Claims

/-- The offset at which a register stands in the window (20_memory.md R51); no one offset for reserved slots. -/
def Reg.offset : Reg → Nat
  | .id => 0x000
  | .ctrl => 0x004
  | .status => 0x008
  | .cmd => 0x00C
  | .scfg => 0x010
  | .rawLen => 0x014
  | .outLen => 0x018
  | .resType => 0x01C
  | .rawLo .low => 0x020
  | .rawLo .high => 0x024
  | .rawHi .low => 0x028
  | .rawHi .high => 0x02C
  | .engLo .low => 0x030
  | .engLo .high => 0x034
  | .engHi .low => 0x038
  | .engHi .high => 0x03C
  | .val .low => 0x040
  | .val .high => 0x044
  | .res .low => 0x048
  | .res .high => 0x04C
  | .unit i => 0x400 + 4 * i
  | .out i => 0x800 + 4 * i
  | .reserved => 0x050

/-! `fun_cases regAt off` has a case for each slot below 0x050 (`case1` to `case20`), then `UNIT[]` (`case21`), `OUT[]`
(`case22`) and the reserved slots (`case23`). -/

/-- The map is one to one on the aligned offsets of registers: the register's own offset is the one it was found at. -/
theorem offset_regAt {off : Nat} (halign : off % 4 = 0) (h : regAt off ≠ .reserved) : (regAt off).offset = off := by
  revert h
  fun_cases regAt off <;> intro h
  case case21 => simp only [Reg.offset]; omega
  case case22 => simp only [Reg.offset]; omega
  case case23 => exact absurd rfl h
  all_goals rfl

/-- The 256 slots of `UNIT[]` (10_state.md R35). -/
theorem unit_lt_of_regAt {off i : Nat} (h : regAt off = .unit i) : i < 256 := by
  revert h
  fun_cases regAt off <;> intro h <;> cases h
  omega


theorem code_eq_typeCode (t : ResType) : t.code.setWidth 32 = BitVec.ofNat 32 (typeCode t) := by cases t <;> rfl

theorem getHalf_low (v : BitVec 64) : getHalf .low v = BitVec.ofNat 32 (lowHalf v) := by
  apply BitVec.eq_of_toNat_eq
  simp [getHalf, lowHalf, BitVec.extractLsb'_toNat]

theorem getHalf_high (v : BitVec 64) : getHalf .high v = BitVec.ofNat 32 (highHalf v) := by
  apply BitVec.eq_of_toNat_eq
  simp [getHalf, highHalf, BitVec.extractLsb'_toNat, Nat.shiftRight_eq_div_pow]

theorem readReg_unit (s : State) {i : Nat} (h : i < 256) : readReg (.unit i) s = BitVec.ofNat 32 s.unit[i].toNat := by
  simp [readReg, h]

theorem readReg_out (s : State) {i : Nat} (h : i < 256) : readReg (.out i) s = BitVec.ofNat 32 s.out[i].toNat := by
  simp [readReg, h]

/-- The layouts of the window's slots (20_memory.md R51, 10_state.md R21 to R36). -/
theorem busRead_eq_slotValue (s : State) (off : Nat) : busRead off s = BitVec.ofNat 32 (slotValue s off) := by
  unfold busRead
  fun_cases regAt off
  case case21 h =>
    have hslot : slotValue s off = s.unit[(off - 0x400) / 4].toNat := by simp [slotValue, *]
    rw [readReg_unit s (by omega), hslot]
  case case22 h =>
    have hslot : slotValue s off = s.out[(off - 0x800) / 4].toNat := by simp [slotValue, *]
    rw [readReg_out s (by omega), hslot]
  case case23 =>
    have hslot : slotValue s off = 0 := by simp [slotValue, *]
    rw [hslot]; rfl
  all_goals simp [slotValue, readReg, idValue, code_eq_typeCode, getHalf_low, getHalf_high]

/-- An accepted read is answered with its slot's value (20_memory.md R56). -/
theorem serve_read_accepted {off : Nat} {s : State} (hwin : off < 4096) (halign : off % 4 = 0)
    (hreset : s.inReset = false) : serve (.read off 32) s = .next (s.respond (.data (busRead off s))) := by
  simp [serve, inWindow, accessOk, hwin, halign, hreset]

/-- An accepted write reaches its slot (20_memory.md R56). -/
theorem serve_write_accepted {off : Nat} {s : State} (v : BitVec 32) (hwin : off < 4096) (halign : off % 4 = 0)
    (hreset : s.inReset = false) : serve (.write off 32 v) s = busWrite off v (s.respond .done) := by
  simp [serve, inWindow, accessOk, hwin, halign, hreset]

/-- What the host has still to do and what it was answered is in no register. -/
theorem busRead_of_host (off : Nat) (s : State) (rest : List HostEvent) (r : Response) :
    busRead off { s with pending := rest, response := r } = busRead off s := rfl

/-- Settles O15: the access is accepted, and the slot's layout is `busRead_eq_slotValue`. -/
theorem readsHaveNoSideEffect : Obligations.ReadsHaveNoSideEffect := by
  intro s off hwin halign
  refine ⟨busRead_eq_slotValue s off, fun rest hreset hpend => ?_⟩
  rw [step_serve hpend, serve_read_accepted (s := { s with pending := rest }) hwin halign hreset,
    busRead_eq_slotValue]
  rfl

/-- Settles O8: the write is accepted, reaches `CMD` and runs the word it stored. -/
theorem stepRunsTheDecodedCommand : Obligations.StepRunsTheDecodedCommand := by
  intro s w rest i ⟨hreset, hpend⟩ hdec
  rw [step_serve hpend, serve_write_accepted (s := { s with pending := rest }) w (by decide) rfl hreset]
  show runCommand w { s with pending := rest, response := .done, cmd := w } = _
  simp only [runCommand, hdec]

/-- What a register reads after a write of `v` to it, where it read `old` before (10_state.md R21 to R36). -/
def Reg.kept (old v : BitVec 32) : Reg → BitVec 32
  | .ctrl => v &&& 0x7#32
  | .cmd => v
  | .scfg => v &&& 0x1#32
  | .rawLen => if v.toNat ≤ 256 then v else 256#32
  | .rawLo _ | .rawHi _ | .engLo _ | .engHi _ | .val _ => v
  | .unit _ => v &&& 0xFFFF#32
  | .id | .status | .outLen | .resType | .res _ | .out _ | .reserved => old

/-- The statement's read-back by offsets is that of the register there, but for `CMD`, which it leaves out. -/
theorem readBack_eq_kept {off : Nat} (old v : BitVec 32) (halign : off % 4 = 0) (hcmd : off ≠ 0x00C) :
    readBack off old v = (regAt off).kept old v := by
  fun_cases regAt off
  case case4 => exact absurd rfl hcmd
  case case21 h =>
    simp only [readBack, Reg.kept]
    rw [if_neg (by omega), if_neg (by omega), if_neg (by omega), if_neg (by omega), if_pos h]
  case case22 h =>
    simp only [readBack, Reg.kept]
    rw [if_neg (by omega), if_neg (by omega), if_neg (by omega), if_neg (by omega), if_neg (by omega)]
  case case23 h =>
    simp only [imp_false] at *
    have hslot : ¬ (0x020 ≤ off ∧ off ≤ 0x044) := by omega
    simp only [readBack, Reg.kept]
    rw [if_neg (by omega), if_neg (by omega), if_neg (by omega), if_neg (by omega), if_neg (by omega)]
  all_goals rfl

/-- The low bits of a value, stored and read back with zeros above. -/
theorem setWidth_setWidth_eq_and (v : BitVec 32) (n : Nat) (hn : n ≤ 32) :
    (v.setWidth n).setWidth 32 = v &&& BitVec.ofNat 32 (2 ^ n - 1) := by
  have hlow : v.toNat % 2 ^ n ≤ v.toNat := Nat.mod_le ..
  have hmask : 2 ^ n - 1 < 2 ^ 32 := by have := Nat.pow_le_pow_right (n := 2) (by decide) hn; omega
  apply BitVec.eq_of_toNat_eq
  rw [BitVec.toNat_and, BitVec.toNat_setWidth, BitVec.toNat_setWidth, BitVec.toNat_ofNat, Nat.mod_eq_of_lt hmask,
    Nat.and_two_pow_sub_one_eq_mod, Nat.mod_eq_of_lt (lt_of_le_of_lt hlow v.isLt)]

/-- `RAW_LEN` clamps, and a length up to 256 fits its 9 bits (10_state.md R29). -/
theorem rawLen_readBack (v : BitVec 32) :
    (BitVec.ofNat 9 (min v.toNat 256)).setWidth 32 = if v.toNat ≤ 256 then v else 256#32 := by
  apply BitVec.eq_of_toNat_eq
  split <;> simp <;> omega

/-- The register just written reads what it keeps of the value. -/
theorem readReg_writeReg_same (r : Reg) (v : BitVec 32) (s : State) (hunit : ∀ i, r = .unit i → i < 256) :
    readReg r (writeReg r v s) = r.kept (readReg r s) v := by
  cases r with
  | ctrl => exact setWidth_setWidth_eq_and v 3 (by decide)
  | scfg => exact setWidth_setWidth_eq_and v 1 (by decide)
  | rawLen => exact rawLen_readBack v
  | rawLo h | rawHi h | engLo h | engHi h | val h => exact getHalf_setHalf_same h _ v
  | unit i =>
    have hi := hunit i rfl
    have hread : (s.unit.setIfInBounds i (v.setWidth 16))[i]? = some (v.setWidth 16) := by simp [hi]
    simp only [readReg, writeReg, hread, Option.getD_some, Reg.kept]
    exact setWidth_setWidth_eq_and v 16 (by decide)
  | _ => rfl

/-- A write reaches one register (20_memory.md R54, R55). -/
theorem readReg_writeReg_other {r r' : Reg} (h : r' ≠ r) (v : BitVec 32) (s : State) :
    readReg r' (writeReg r v s) = readReg r' s := by
  cases r with
  | id | status | outLen | resType | res | out | reserved => rfl
  | ctrl | cmd | scfg | rawLen =>
    cases r' <;> try rfl
    exact absurd rfl h
  | rawLo k | rawHi k | engLo k | engHi k | val k =>
    cases r' <;> try rfl
    exact getHalf_setHalf_other _ _ (by rintro rfl; exact h rfl) _ _
  | unit i =>
    cases r' with
    | unit j =>
      have hij : i ≠ j := fun hij => h (hij ▸ rfl)
      have hread : (s.unit.setIfInBounds i (v.setWidth 16))[j]? = s.unit[j]? := Vector.getElem?_setIfInBounds_ne hij
      simp only [readReg, writeReg, hread]
    | _ => rfl

@[simp] theorem writeReg_pending (r : Reg) (v : BitVec 32) (s : State) : (writeReg r v s).pending = s.pending := by
  cases r <;> rfl

@[simp] theorem writeReg_response (r : Reg) (v : BitVec 32) (s : State) : (writeReg r v s).response = s.response := by
  cases r <;> rfl

@[simp] theorem writeReg_inReset (r : Reg) (v : BitVec 32) (s : State) : (writeReg r v s).inReset = s.inReset := by
  cases r <;> rfl

@[simp] theorem writeReg_draws (r : Reg) (v : BitVec 32) (s : State) : (writeReg r v s).draws = s.draws := by
  cases r <;> rfl

/-- At an aligned offset, a write stores into the slot's register and leaves every other slot (20_memory.md R54). -/
theorem busRead_writeReg_other {off off' : Nat} (halign : off % 4 = 0) (halign' : off' % 4 = 0) (hne : off' ≠ off)
    (v : BitVec 32) (s : State) : busRead off' (writeReg (regAt off) v s) = busRead off' s := by
  by_cases hres : regAt off = .reserved
  · rw [hres]; rfl
  · refine readReg_writeReg_other (fun heq => hne ?_) v s
    rw [← offset_regAt halign' (heq ▸ hres), heq, offset_regAt halign hres]

/-- Settles O17: the map gives the slot its own register, and a write reaches one register. -/
theorem writeStoresItsSlotOnly : Obligations.WriteStoresItsSlotOnly := by
  intro s rest off v hwin halign hcmd hreset hpend
  have hreg : regAt off ≠ .cmd := fun h => hcmd (by rw [← offset_regAt halign (by simp [h]), h]; rfl)
  refine ⟨writeReg (regAt off) v { s with pending := rest, response := .done }, ?_, by simp, by simp,
    by simpa using hreset, by simp, by simp, ?_, fun off' _ halign' hne => ?_⟩
  · rw [step_serve hpend, serve_write_accepted (s := { s with pending := rest }) v hwin halign hreset, busWrite,
      if_neg hreg]
    rfl
  · rw [readBack_eq_kept _ v halign hcmd]
    exact readReg_writeReg_same _ v _ (fun i => unit_lt_of_regAt)
  · rw [busRead_writeReg_other halign halign' hne, busRead_of_host]

/-- Every register but `ID` reads 0 after reset (70_reset_and_hazards.md R221). -/
theorem readReg_reset (r : Reg) : readReg r State.reset = if r = .id then 0x52574331#32 else 0#32 := by
  cases r with
  | rawLo h | rawHi h | engLo h | engHi h | val h | res h => cases h <;> rfl
  | unit i | out i =>
    have hread : (Vector.replicate 256 (0 : BitVec 16))[i]?.getD 0 = 0 := by
      rw [Vector.getElem?_replicate]; split <;> rfl
    exact congrArg (BitVec.setWidth 32) hread
  | _ => rfl

/-- Settles O14, by `readReg_reset`: `ID` stands at offset 0 alone. -/
theorem resetStateReadsAsTheTable : Obligations.ResetStateReadsAsTheTable := by
  refine ⟨rfl, fun off _ halign => ?_⟩
  have hid : regAt off = .id ↔ off = 0 :=
    ⟨fun h => by rw [← offset_regAt halign (by simp [h]), h]; rfl, fun h => by rw [h]; rfl⟩
  simp only [busRead, readReg_reset, hid]

end Sys2Proof.Machine
end

section
/-! SUPPORT. The accesses that reach no register (20_memory.md R50 to R54): a slot that ignores writes, an access RWC
answers with BUSERR, and one outside the window. -/

namespace Sys2Proof.Machine

/-- The registers a host write leaves alone: the read-only ones and the reserved slots (20_memory.md R53, R54). -/
def Reg.ignoresWrites : Reg → Bool
  | .id | .status | .outLen | .resType | .res _ | .out _ | .reserved => true
  | .ctrl | .cmd | .scfg | .rawLen | .rawLo _ | .rawHi _ | .engLo _ | .engHi _ | .val _ | .unit _ => false

theorem writeReg_eq_self {r : Reg} (h : r.ignoresWrites = true) (v : BitVec 32) (s : State) : writeReg r v s = s := by
  cases r with
  | id | status | outLen | resType | res _ | out _ | reserved => rfl
  | _ => cases h

/-- A write to such a register executes no command either: it is not `CMD`. -/
theorem busWrite_eq_self {off : Nat} (h : (regAt off).ignoresWrites = true) (v : BitVec 32) (s : State) :
    busWrite off v s = .next s := by
  obtain ⟨hcmd, _⟩ | ⟨_, hwrite⟩ := busWrite_cases off v s
  · rw [hcmd] at h; cases h
  · rw [hwrite, writeReg_eq_self h]

/-- The read-only registers and reserved slots by their offsets (20_memory.md R51). -/
theorem regAt_ignoresWrites {off : Nat}
    (h : off ∈ [0x000, 0x008, 0x018, 0x01C, 0x048, 0x04C] ∨ (0x050 ≤ off ∧ off < 0x400) ∨ 0x800 ≤ off) :
    (regAt off).ignoresWrites = true := by
  revert h
  fun_cases regAt off
  case case21 =>
    intro h
    simp only [List.mem_cons, List.not_mem_nil, or_false] at h
    omega
  case case22 => exact fun _ => rfl
  case case23 => exact fun _ => rfl
  all_goals decide

/-- The reserved slots by their offsets (20_memory.md R51). -/
theorem regAt_eq_reserved {off : Nat} (h : (0x050 ≤ off ∧ off < 0x400) ∨ 0xC00 ≤ off) : regAt off = .reserved := by
  revert h
  fun_cases regAt off
  case case21 => omega
  case case22 => omega
  case case23 => exact fun _ => rfl
  all_goals decide

/-- Settles O16: the access is accepted, the slot's register ignores writes, and a reserved slot reads 0. -/
theorem ignoredWritesChangeNothing : Obligations.IgnoredWritesChangeNothing := by
  intro s rest off v hwin halign hreset hslot
  refine ⟨fun hpend => ?_, fun hreserved hpend => ?_⟩
  · refine ⟨{ s with pending := rest, response := .done }, ?_, rfl, by simp⟩
    rw [step_serve hpend, serve_write_accepted (s := { s with pending := rest }) v hwin halign hreset,
      busWrite_eq_self (regAt_ignoresWrites hslot)]
    rfl
  · refine ⟨{ s with pending := rest, response := .data 0#32 }, ?_, rfl⟩
    rw [step_serve hpend, serve_read_accepted (s := { s with pending := rest }) hwin halign hreset, busRead,
      regAt_eq_reserved hreserved]
    rfl

theorem inWindow_iff (off : Nat) : inWindow off = true ↔ off < 4096 := decide_eq_true_iff

theorem inWindow_eq_false_iff (off : Nat) : inWindow off = false ↔ 4096 ≤ off := by
  rw [← Bool.not_eq_true, inWindow_iff, not_lt]

theorem accessOk_eq_false_iff (off width : Nat) : accessOk off width = false ↔ width ≠ 32 ∨ off % 4 ≠ 0 := by
  simp [accessOk, imp_iff_not_or]

/-- A read in the window that RWC does not accept is answered with BUSERR (60_exceptions.md R202, R204). -/
theorem serve_read_rejected {off width : Nat} {s : State} (hwin : off < 4096)
    (hbad : accessOk off width = false ∨ s.inReset = true) :
    serve (.read off width) s = .next (raiseBusErr true s) := by
  obtain ⟨hout, _⟩ | ⟨_, hok, hrun, _⟩ | ⟨_, _, hserve⟩ := serve_read_cases off width s
  · rw [(inWindow_iff off).mpr hwin] at hout; cases hout
  · simp [hok, hrun] at hbad
  · exact hserve

/-- A write in the window that RWC does not accept is answered with BUSERR (60_exceptions.md R202, R204). -/
theorem serve_write_rejected {off width : Nat} {s : State} (v : BitVec 32) (hwin : off < 4096)
    (hbad : accessOk off width = false ∨ s.inReset = true) :
    serve (.write off width v) s = .next (raiseBusErr false s) := by
  obtain ⟨hout, _⟩ | ⟨_, hok, hrun, _⟩ | ⟨_, _, hserve⟩ := serve_write_cases off width v s
  · rw [(inWindow_iff off).mpr hwin] at hout; cases hout
  · simp [hok, hrun] at hbad
  · exact hserve

/-- On a bus that carries errors, BUSERR is the error response for reads and writes (60_exceptions.md R202). -/
theorem raiseBusErr_signalled {s : State} (h : s.cfg.busErrorSignalled = true) (isRead : Bool) :
    raiseBusErr isRead s = s.respond .busErr := by rw [raiseBusErr, if_pos h]

/-- Settles O10: the access is rejected before it reaches a register, and the bus carries the error. -/
theorem badAccessGetsBusErr : Obligations.BadAccessGetsBusErr := by
  intro s rest off width v hwin hbad hsignal
  have hrejected := (accessOk_eq_false_iff off width).mpr hbad
  have hbusErr (isRead : Bool) := raiseBusErr_signalled (s := { s with pending := rest }) hsignal isRead
  refine ⟨fun hpend => ?_, fun hpend => ?_⟩
  · rw [step_serve hpend, serve_read_rejected hwin (.inl hrejected), hbusErr]
    rfl
  · rw [step_serve hpend, serve_write_rejected v hwin (.inl hrejected), hbusErr]
    rfl

/-- An access outside the window reaches nothing of RWC (20_memory.md R50, notes/assumptions/7.md). -/
theorem serve_of_not_inWindow {e : HostEvent} (h : e.inWindow = false) (s : State) :
    serve e s = .fault .outsideWindow := by
  cases e with
  | read off width => simp [serve, show inWindow off = false from h]
  | write off width v => simp [serve, show inWindow off = false from h]
  | resetLine asserted => cases h

/-- Settles O19: neither a read nor a write is served outside the window. -/
theorem accessOutsideWindowFaults : Obligations.AccessOutsideWindowFaults := by
  intro s rest off width v hoff hpend
  have hout : inWindow off = false := (inWindow_eq_false_iff off).mpr hoff
  obtain hread | hwrite := hpend
  · rw [step_serve hread, serve_of_not_inWindow (e := .read off width) hout]
  · rw [step_serve hwrite, serve_of_not_inWindow (e := .write off width v) hout]

end Sys2Proof.Machine
end

section
/-! SUPPORT. The command word by its operand fields (30_encoding.md R71): each row of R79 fixes `RSV`, `OP` and `KIND` and
names the operand fields that must be 0. The decoder, the encoder, the opcode table and the assembler are each tied to
that one description. -/

namespace Sys2Proof

open Sys2Proof.Claims

/-- The operand fields of a command word (30_encoding.md R71). -/
structure OperandFields where
  bo : ByteOrder
  wo : WordOrder
  off : Nat
  slen : Nat

/-- Every operand field 0: `BE`, `ABCD`, offset 0, `SLEN` 0. -/
def OperandFields.zero : OperandFields := ⟨.be, .abcd, 0, 0⟩

/-- The operand fields lie in their 8 bits (30_encoding.md R76, R77). -/
def OperandFields.InRange (f : OperandFields) : Prop := f.off < 256 ∧ f.slen < 256

/-- The operand fields the decoder reads from a word (30_encoding.md R71). -/
def fieldsOf (w : Word32) : OperandFields :=
  ⟨.ofCode (wordField w 8 1), .ofCode (wordField w 9 2), wordField w 16 8, wordField w 24 8⟩

/-- The `KIND` field of a row: 0 where the operation has no kinds (30_encoding.md R79). -/
def Mnemonic.kindField (m : Mnemonic) : Nat := ((kindOf m).map kindCode).getD 0

/-- The command word of a row with the given operand fields. -/
def Mnemonic.word (m : Mnemonic) (f : OperandFields) : Word32 :=
  commandWord (opCode m) m.kindField f.bo f.wo f.off f.slen

/-- The word's `RSV` is 0 and its `OP` and `KIND` are the row's. -/
def Mnemonic.Heads (m : Mnemonic) (w : Word32) : Prop :=
  wordField w 11 5 = 0 ∧ wordField w 0 4 = opCode m ∧ wordField w 4 4 = m.kindField

/-- There is such a row, and its must-be-0 fields are 0 (30_encoding.md R79). -/
def Mnemonic.Allows (f : OperandFields) : Mnemonic → Prop
  | .nop | .toEng | .toRaw => f = .zero
  | .dec k => k ≠ .str → f.slen = 0
  | .enc k => k ≠ .str → f.off = 0 ∧ f.slen = 0
  | .decs k => (k ≠ .bool ∧ k ≠ .str) ∧ f.slen = 0
  | .encs k => (k ≠ .bool ∧ k ≠ .str) ∧ f.off = 0 ∧ f.slen = 0

/-- The word is one of the row's (30_encoding.md R79). -/
def Mnemonic.Reads (m : Mnemonic) (w : Word32) : Prop := m.Heads w ∧ m.Allows (fieldsOf w)

/-- The instruction of a row with the given operand fields (30_encoding.md R82). -/
def Mnemonic.instr (f : OperandFields) : Mnemonic → Option Instr
  | .nop => some .nop
  | .toEng => some .toEng
  | .toRaw => some .toRaw
  | .dec k => some (decOf f.bo f.wo f.off (f.slen + 1) k)
  | .enc k => some (encOf f.bo f.wo f.off (f.slen + 1) k)
  | .decs k => decsOf f.bo f.wo f.off k
  | .encs k => encsOf f.bo f.wo k

/-! The codes of the kinds and operations. -/

theorem kindCode_le_nine (k : Kind) : kindCode k ≤ 9 := by cases k <;> decide

theorem kindCode_eq_nine_iff (k : Kind) : kindCode k = 9 ↔ k = .str := by cases k <;> decide

theorem kindCode_lt_eight_iff (k : Kind) : kindCode k < 8 ↔ k ≠ .bool ∧ k ≠ .str := by cases k <;> decide

theorem Kind.ofCode_kindCode (k : Kind) : Kind.ofCode (kindCode k) = some k := by cases k <;> rfl

theorem Kind.ofCode_eq_some_iff (c : Nat) (k : Kind) : Kind.ofCode c = some k ↔ c = kindCode k := by
  refine ⟨fun h => ?_, fun h => h ▸ Kind.ofCode_kindCode k⟩
  unfold Kind.ofCode at h
  split at h <;> cases h <;> rfl

theorem exists_kindCode {c : Nat} (h : c ≤ 9) : ∃ k, c = kindCode k := by
  interval_cases c
  exacts [⟨.i16, rfl⟩, ⟨.u16, rfl⟩, ⟨.i32, rfl⟩, ⟨.u32, rfl⟩, ⟨.i64, rfl⟩, ⟨.u64, rfl⟩, ⟨.f32, rfl⟩, ⟨.f64, rfl⟩,
    ⟨.bool, rfl⟩, ⟨.str, rfl⟩]

theorem opCode_lt (m : Mnemonic) : opCode m < 16 := by cases m <;> simp [opCode]

theorem Mnemonic.kindField_lt (m : Mnemonic) : m.kindField < 16 := by
  cases m with
  | dec k | enc k | decs k | encs k => exact (kindCode_le_nine k).trans_lt (by decide)
  | nop | toEng | toRaw => decide

theorem ByteOrder.code_ofCode {c : Nat} (h : c < 2) : (ByteOrder.ofCode c).code = c := by interval_cases c <;> rfl

theorem WordOrder.code_ofCode {c : Nat} (h : c < 4) : (WordOrder.ofCode c).code = c := by interval_cases c <;> rfl

/-! A word is its fields. -/

theorem fieldsOf_inRange (w : Word32) : (fieldsOf w).InRange := ⟨wordField_lt w 16 8, wordField_lt w 24 8⟩

theorem Mnemonic.heads_word (m : Mnemonic) (f : OperandFields) : m.Heads (m.word f) :=
  ⟨commandWord_rsv .., (commandWord_op ..).trans (Nat.mod_eq_of_lt (opCode_lt m)),
    (commandWord_kind ..).trans (Nat.mod_eq_of_lt m.kindField_lt)⟩

theorem Mnemonic.fieldsOf_word (m : Mnemonic) {f : OperandFields} (hf : f.InRange) : fieldsOf (m.word f) = f := by
  obtain ⟨hoff, hslen⟩ := hf
  simp [fieldsOf, word, commandWord_bo, commandWord_wo, commandWord_off, commandWord_slen, Nat.mod_eq_of_lt hoff,
    Nat.mod_eq_of_lt hslen]

/-- No bit of a word with `RSV = 0` lies outside `OP`, `KIND` and the operand fields (30_encoding.md R71). -/
theorem Mnemonic.word_fieldsOf {m : Mnemonic} {w : Word32} (h : m.Heads w) : m.word (fieldsOf w) = w := by
  obtain ⟨hrsv, hop, hkind⟩ := h
  apply BitVec.eq_of_toNat_eq
  rw [word, commandWord_toNat, ← hop, ← hkind]
  simp only [fieldsOf, ByteOrder.code_ofCode (wordField_lt w 8 1), WordOrder.code_ofCode (wordField_lt w 9 2)]
  have hw := w.isLt
  simp only [wordField_eq] at hrsv ⊢
  omega

theorem Mnemonic.eq_word_iff (m : Mnemonic) {f : OperandFields} (hf : f.InRange) (w : Word32) :
    w = m.word f ↔ m.Heads w ∧ fieldsOf w = f := by
  refine ⟨?_, fun ⟨hhead, hfields⟩ => by rw [← hfields, word_fieldsOf hhead]⟩
  rintro rfl
  exact ⟨m.heads_word f, m.fieldsOf_word hf⟩

/-- On a row without kinds the whole word above `OP` must be 0, `RSV` included (30_encoding.md R79). -/
theorem wordField_above_op_eq_zero_iff {w : Word32} (hrsv : wordField w 11 5 = 0) :
    wordField w 4 28 = 0 ↔ wordField w 4 4 = 0 ∧ fieldsOf w = .zero := by
  have hbo := ByteOrder.code_ofCode (wordField_lt w 8 1)
  have hwo := WordOrder.code_ofCode (wordField_lt w 9 2)
  have hzero : fieldsOf w = .zero ↔
      wordField w 8 1 = 0 ∧ wordField w 9 2 = 0 ∧ wordField w 16 8 = 0 ∧ wordField w 24 8 = 0 := by
    rw [← hbo, ← hwo]
    simp only [fieldsOf, OperandFields.zero, OperandFields.mk.injEq]
    generalize ByteOrder.ofCode (wordField w 8 1) = bo
    generalize WordOrder.ofCode (wordField w 9 2) = wo
    cases bo <;> cases wo <;> simp [ByteOrder.code, WordOrder.code]
  rw [hzero]
  have hw := w.isLt
  simp only [wordField_eq] at hrsv ⊢
  omega

/-! The instructions of a row. -/

theorem Mnemonic.exists_instr {m : Mnemonic} {f : OperandFields} (h : m.Allows f) : ∃ i, m.instr f = some i := by
  cases m with
  | nop | toEng | toRaw | dec k | enc k => exact ⟨_, rfl⟩
  | decs k | encs k =>
    obtain ⟨⟨hbool, hstr⟩, _⟩ := h
    cases k with
    | bool => exact absurd rfl hbool
    | str => exact absurd rfl hstr
    | _ => exact ⟨_, rfl⟩

theorem Mnemonic.mnemonic_of_instr {m : Mnemonic} {f : OperandFields} {i : Instr} (h : m.instr f = some i) :
    i.mnemonic = m := by
  cases m with
  | nop | toEng | toRaw => cases h; rfl
  | dec k | enc k | decs k | encs k => cases k <;> cases h <;> rfl

theorem Mnemonic.instr_wellFormed {m : Mnemonic} {f : OperandFields} {i : Instr} (hf : f.InRange)
    (h : m.instr f = some i) : i.WellFormed := by
  obtain ⟨hoff, hslen⟩ := hf
  cases m with
  | nop | toEng | toRaw => cases h; rfl
  | dec k => cases h; exact decOf_wellFormed hoff hslen k
  | enc k => cases h; exact encOf_wellFormed hoff hslen k
  | decs k => exact decsOf_wellFormed hoff h
  | encs k => exact encsOf_wellFormed h

/-- The encoder writes a row's codes and operand fields where the row allows them (30_encoding.md R79). -/
theorem encode_of_instr {m : Mnemonic} {f : OperandFields} {i : Instr} (hallows : m.Allows f) (h : m.instr f = some i) :
    encode i = m.word f := by
  obtain ⟨bo, wo, off, slen⟩ := f
  cases m with
  | nop | toEng | toRaw => cases h; cases hallows; rfl
  | dec k =>
    cases h
    cases k with
    | str => rfl
    | _ => obtain rfl : slen = 0 := hallows nofun; rfl
  | enc k =>
    cases h
    cases k with
    | str => rfl
    | _ => obtain ⟨rfl, rfl⟩ : off = 0 ∧ slen = 0 := hallows nofun; rfl
  | decs k =>
    obtain ⟨_, rfl⟩ : _ ∧ slen = 0 := hallows
    cases k <;> cases h <;> rfl
  | encs k =>
    obtain ⟨_, rfl, rfl⟩ : _ ∧ off = 0 ∧ slen = 0 := hallows
    cases k <;> cases h <;> rfl

/-- The operand fields of an instruction; one its row must have 0 is 0. -/
def Instr.fields : Instr → OperandFields
  | .nop | .toEng | .toRaw => .zero
  | .decI16 bo wo off | .decU16 bo wo off | .decI32 bo wo off | .decU32 bo wo off | .decI64 bo wo off
  | .decU64 bo wo off | .decF32 bo wo off | .decF64 bo wo off | .decBool bo wo off => ⟨bo, wo, off, 0⟩
  | .decsI16 bo wo off | .decsU16 bo wo off | .decsI32 bo wo off | .decsU32 bo wo off | .decsI64 bo wo off
  | .decsU64 bo wo off | .decsF32 bo wo off | .decsF64 bo wo off => ⟨bo, wo, off, 0⟩
  | .encI16 bo wo | .encU16 bo wo | .encI32 bo wo | .encU32 bo wo | .encI64 bo wo | .encU64 bo wo | .encF32 bo wo
  | .encF64 bo wo | .encBool bo wo => ⟨bo, wo, 0, 0⟩
  | .encsI16 bo wo | .encsU16 bo wo | .encsI32 bo wo | .encsU32 bo wo | .encsI64 bo wo | .encsU64 bo wo
  | .encsF32 bo wo | .encsF64 bo wo => ⟨bo, wo, 0, 0⟩
  | .decStr bo wo off n | .encStr bo wo off n => ⟨bo, wo, off, n - 1⟩

theorem Instr.allows_fields (i : Instr) : i.mnemonic.Allows i.fields := by
  cases i with
  | nop | toEng | toRaw => rfl
  | decStr | encStr => exact fun h => absurd rfl h
  | decI16 | decU16 | decI32 | decU32 | decI64 | decU64 | decF32 | decF64 | decBool => exact fun _ => rfl
  | encI16 | encU16 | encI32 | encU32 | encI64 | encU64 | encF32 | encF64 | encBool => exact fun _ => ⟨rfl, rfl⟩
  | decsI16 | decsU16 | decsI32 | decsU32 | decsI64 | decsU64 | decsF32 | decsF64 => exact ⟨⟨nofun, nofun⟩, rfl⟩
  | encsI16 | encsU16 | encsI32 | encsU32 | encsI64 | encsU64 | encsF32 | encsF64 => exact ⟨⟨nofun, nofun⟩, rfl, rfl⟩

/-- `n` is `SLEN + 1` (30_encoding.md R77). -/
theorem Instr.fields_of_wellFormed {i : Instr} (h : i.WellFormed) :
    i.fields.InRange ∧ i.mnemonic.instr i.fields = some i := by
  have hzero : 0 < 256 := by decide
  cases i with
  | nop | toEng | toRaw => exact ⟨⟨hzero, hzero⟩, rfl⟩
  | decStr bo wo off n | encStr bo wo off n =>
    simp only [WellFormed, wf, offsetOk, lengthOk, Bool.and_eq_true, decide_eq_true_eq] at h
    obtain ⟨hoff, hpos, hle⟩ := h
    refine ⟨⟨hoff, by simp only [fields]; omega⟩, ?_⟩
    simp [mnemonic, fields, Mnemonic.instr, decOf, encOf, Nat.sub_add_cancel hpos]
  | decI16 | decU16 | decI32 | decU32 | decI64 | decU64 | decF32 | decF64 | decBool
  | decsI16 | decsU16 | decsI32 | decsU32 | decsI64 | decsU64 | decsF32 | decsF64 =>
    exact ⟨⟨of_decide_eq_true h, hzero⟩, rfl⟩
  | encI16 | encU16 | encI32 | encU32 | encI64 | encU64 | encF32 | encF64 | encBool
  | encsI16 | encsU16 | encsI32 | encsU32 | encsI64 | encsU64 | encsF32 | encsF64 =>
    exact ⟨⟨hzero, hzero⟩, rfl⟩

/-! What each operation's decoder accepts (30_encoding.md R82). -/

theorem requireZero_eq_ok_iff (b : Bool) (i j : Instr) : requireZero b i = .ok j ↔ b = true ∧ i = j := by
  cases b <;> simp [requireZero]

section Operations
variable {kind slen off : Nat} {bo : ByteOrder} {wo : WordOrder} {k : Kind} {i : Instr}

theorem decodeDec_eq_ok_iff : decodeDec kind slen bo wo off = .ok i ↔
    ∃ k, kind = kindCode k ∧ (k ≠ .str → slen = 0) ∧ decOf bo wo off (slen + 1) k = i := by
  simp only [← Kind.ofCode_eq_some_iff, decodeDec]
  cases Kind.ofCode kind with
  | none => simp
  | some k => by_cases hk : k = .str <;> simp [hk, requireZero_eq_ok_iff]

theorem decodeEnc_eq_ok_iff : decodeEnc kind slen bo wo off = .ok i ↔
    ∃ k, kind = kindCode k ∧ (k ≠ .str → off = 0 ∧ slen = 0) ∧ encOf bo wo off (slen + 1) k = i := by
  simp only [← Kind.ofCode_eq_some_iff, decodeEnc]
  cases Kind.ofCode kind with
  | none => simp
  | some k => by_cases hk : k = .str <;> simp [hk, requireZero_eq_ok_iff]

theorem decodeDecs_eq_ok_iff : decodeDecs kind slen bo wo off = .ok i ↔
    ∃ k, kind = kindCode k ∧ slen = 0 ∧ decsOf bo wo off k = some i := by
  simp only [← Kind.ofCode_eq_some_iff, decodeDecs]
  cases Kind.ofCode kind with
  | none => simp
  | some k => cases hk : decsOf bo wo off k <;> simp [hk, requireZero_eq_ok_iff]

theorem decodeEncs_eq_ok_iff : decodeEncs kind slen bo wo off = .ok i ↔
    ∃ k, kind = kindCode k ∧ (off = 0 ∧ slen = 0) ∧ encsOf bo wo k = some i := by
  simp only [← Kind.ofCode_eq_some_iff, decodeEncs]
  cases Kind.ofCode kind with
  | none => simp
  | some k => cases hk : encsOf bo wo k <;> simp [hk, requireZero_eq_ok_iff]

theorem decsOf_eq_some (h : decsOf bo wo off k = some i) : k ≠ .bool ∧ k ≠ .str := by
  cases k <;> cases h <;> exact ⟨nofun, nofun⟩

theorem encsOf_eq_some (h : encsOf bo wo k = some i) : k ≠ .bool ∧ k ≠ .str := by
  cases k <;> cases h <;> exact ⟨nofun, nofun⟩

end Operations

/-- The rows without kinds hold one word each (30_encoding.md R79). -/
theorem Mnemonic.reads_iff_of_no_kind (m : Mnemonic) (hm : kindOf m = none) (w : Word32) :
    m.Reads w ↔ wordField w 11 5 = 0 ∧ wordField w 0 4 = opCode m ∧ wordField w 4 28 = 0 := by
  have hallows : m.Allows (fieldsOf w) ↔ fieldsOf w = .zero := by
    cases m with
    | nop | toEng | toRaw => rfl
    | dec | enc | decs | encs => cases hm
  have hkind : m.kindField = 0 := by rw [kindField, hm]; rfl
  rw [Reads, Heads, hallows, hkind]
  constructor
  · exact fun ⟨⟨hrsv, hop, hk⟩, hf⟩ => ⟨hrsv, hop, (wordField_above_op_eq_zero_iff hrsv).mpr ⟨hk, hf⟩⟩
  · intro ⟨hrsv, hop, habove⟩
    obtain ⟨hk, hf⟩ := (wordField_above_op_eq_zero_iff hrsv).mp habove
    exact ⟨⟨hrsv, hop, hk⟩, hf⟩

/-- An accepted word is one of a row's, and the answer is that row's command (30_encoding.md R79, R82). -/
theorem exists_reads_of_decode {w : Word32} {i : Instr} (h : decode w = .ok i) :
    ∃ m : Mnemonic, m.Reads w ∧ m.instr (fieldsOf w) = some i := by
  unfold decode at h
  dsimp only at h
  split at h
  · cases h
  · next hrsv =>
    have hrsv := not_not.mp hrsv
    have hcontrol (m : Mnemonic) (hm : kindOf m = none) (hop : wordField w 0 4 = opCode m) {j : Instr}
        (h : requireZero (wordField w 4 28 == 0) j = .ok i) : m.Reads w ∧ j = i := by
      obtain ⟨habove, hj⟩ := (requireZero_eq_ok_iff ..).mp h
      exact ⟨(m.reads_iff_of_no_kind hm w).mpr ⟨hrsv, hop, beq_iff_eq.mp habove⟩, hj⟩
    split at h
    · next hop =>
      obtain ⟨hreads, rfl⟩ := hcontrol .nop rfl hop h
      exact ⟨.nop, hreads, rfl⟩
    · next hop =>
      obtain ⟨k, hkind, hslen, rfl⟩ := decodeDec_eq_ok_iff.mp h
      exact ⟨.dec k, ⟨⟨hrsv, hop, hkind⟩, hslen⟩, rfl⟩
    · next hop =>
      obtain ⟨k, hkind, hzero, rfl⟩ := decodeEnc_eq_ok_iff.mp h
      exact ⟨.enc k, ⟨⟨hrsv, hop, hkind⟩, hzero⟩, rfl⟩
    · next hop =>
      obtain ⟨hreads, rfl⟩ := hcontrol .toEng rfl hop h
      exact ⟨.toEng, hreads, rfl⟩
    · next hop =>
      obtain ⟨hreads, rfl⟩ := hcontrol .toRaw rfl hop h
      exact ⟨.toRaw, hreads, rfl⟩
    · next hop =>
      obtain ⟨k, hkind, hslen, hi⟩ := decodeDecs_eq_ok_iff.mp h
      exact ⟨.decs k, ⟨⟨hrsv, hop, hkind⟩, decsOf_eq_some hi, hslen⟩, hi⟩
    · next hop =>
      obtain ⟨k, hkind, hzero, hi⟩ := decodeEncs_eq_ok_iff.mp h
      exact ⟨.encs k, ⟨⟨hrsv, hop, hkind⟩, encsOf_eq_some hi, hzero⟩, hi⟩
    · cases h

/-- A row's word is accepted, and the answer is the row's command (30_encoding.md R79, R82). -/
theorem decode_of_reads {m : Mnemonic} {w : Word32} {i : Instr} (h : m.Reads w) (hi : m.instr (fieldsOf w) = some i) :
    decode w = .ok i := by
  have hcontrol := fun hm => (m.reads_iff_of_no_kind hm w).mp h
  obtain ⟨⟨hrsv, hop, hkind⟩, hallows⟩ := h
  simp only [decode, hrsv, ne_eq, not_true_eq_false, if_false, hop]
  cases m with
  | nop | toEng | toRaw =>
    cases hi
    obtain ⟨_, _, habove⟩ := hcontrol rfl
    exact (requireZero_eq_ok_iff ..).mpr ⟨beq_iff_eq.mpr habove, rfl⟩
  | dec k => exact decodeDec_eq_ok_iff.mpr ⟨k, hkind, hallows, Option.some.inj hi⟩
  | enc k => exact decodeEnc_eq_ok_iff.mpr ⟨k, hkind, hallows, Option.some.inj hi⟩
  | decs k => exact decodeDecs_eq_ok_iff.mpr ⟨k, hkind, hallows.2, hi⟩
  | encs k => exact decodeEncs_eq_ok_iff.mpr ⟨k, hkind, hallows.2, hi⟩

/-- The rows of the decoder (30_encoding.md R79): a word is one of the row's exactly when a command of the row is read. -/
theorem reads_iff_decode (m : Mnemonic) (w : Word32) : m.Reads w ↔ ∃ i, decode w = .ok i ∧ i.mnemonic = m := by
  constructor
  · intro h
    obtain ⟨i, hi⟩ := Mnemonic.exists_instr h.2
    exact ⟨i, decode_of_reads h hi, Mnemonic.mnemonic_of_instr hi⟩
  · rintro ⟨i, hdecode, rfl⟩
    obtain ⟨m, hreads, hi⟩ := exists_reads_of_decode hdecode
    rwa [Mnemonic.mnemonic_of_instr hi]

/-- Settles O1: an instruction's word has its own row's codes and its own fields, and they determine the answer. -/
theorem encodedCommandsDecodeBack : Obligations.EncodedCommandsDecodeBack := by
  intro i hwf
  obtain ⟨hrange, hinstr⟩ := Instr.fields_of_wellFormed hwf
  have hfields := i.mnemonic.fieldsOf_word hrange
  rw [encode_of_instr i.allows_fields hinstr]
  refine decode_of_reads ⟨i.mnemonic.heads_word i.fields, ?_⟩ (hfields.symm ▸ hinstr)
  rw [hfields]
  exact i.allows_fields

/-- Settles O2: the row of a legal word and its fields give the word back. -/
theorem legalWordsEncodeBack : Obligations.LegalWordsEncodeBack := by
  intro w i h
  obtain ⟨m, ⟨hheads, hallows⟩, hi⟩ := exists_reads_of_decode h
  refine ⟨?_, decode_wellFormed h⟩
  rw [encode_of_instr hallows hi, Mnemonic.word_fieldsOf hheads]

theorem decode_of_encode_eq {w : Word32} {i : Instr} (hwf : i.WellFormed) (h : encode i = w) : decode w = .ok i :=
  h ▸ encodedCommandsDecodeBack i hwf

/-- Settles O6: each word written out is the word of its command. -/
theorem decodesWordsWrittenOut : Obligations.DecodesWordsWrittenOut :=
  ⟨decode_of_encode_eq rfl rfl, decode_of_encode_eq rfl rfl, decode_of_encode_eq rfl rfl, decode_of_encode_eq rfl rfl,
    decode_of_encode_eq rfl rfl, decode_of_encode_eq rfl rfl, decode_of_encode_eq rfl rfl, decode_of_encode_eq rfl rfl⟩

end Sys2Proof
end

section
/-! SUPPORT. The opcode table of 30_encoding.md R79 by the rows' fields: a row's mask keeps the bits that are fixed in it,
and its pattern is the row's word with every operand field 0. The illegal words of R80 are the words of no row. -/

namespace Sys2Proof

open Sys2Proof.Claims

/-- The bits of a word that a row fixes (30_encoding.md R79). -/
def Mnemonic.mask : Mnemonic → Word32
  | .nop | .toEng | .toRaw => 0xFFFFFFFF
  | .dec .str | .enc .str => 0x0000F8FF
  | .dec _ | .decs _ => 0xFF00F8FF
  | .enc _ | .encs _ => 0xFFFFF8FF

/-- The rows there are: no Bool or FixedString for the scaler (30_encoding.md R80). -/
def Mnemonic.hasRow : Mnemonic → Bool
  | .decs k | .encs k => k ≠ .bool ∧ k ≠ .str
  | .nop | .toEng | .toRaw | .dec _ | .enc _ => true

theorem opcodeRows_spec :
    ∀ r ∈ opcodeRows, r.name.hasRow = true ∧ r.mask = r.name.mask ∧ r.pattern = r.name.word .zero := by decide

theorem opcodeRows_names_nodup : (opcodeRows.map (·.name)).Nodup := by decide

theorem exists_row {m : Mnemonic} (h : m.hasRow = true) : ∃ r ∈ opcodeRows, r.name = m := by
  rw [← List.mem_map]
  cases m with
  | nop | toEng | toRaw => decide
  | dec k | enc k => cases k <;> decide
  | decs k | encs k => revert h; cases k <;> decide

theorem Mnemonic.Allows.hasRow {m : Mnemonic} {f : OperandFields} (h : m.Allows f) : m.hasRow = true := by
  cases m with
  | nop | toEng | toRaw | dec | enc => rfl
  | decs k | encs k => exact decide_eq_true h.1

/-! A masked word, field by field. -/

theorem wordField_and_of_ones {mask : Word32} {lo n : Nat} (h : wordField mask lo n = 2 ^ n - 1) (w : Word32) :
    wordField (w &&& mask) lo n = wordField w lo n := by
  have hlt := wordField_lt w lo n
  unfold wordField at *
  rw [BitVec.extractLsb'_and, BitVec.toNat_and, h, Nat.and_two_pow_sub_one_of_lt_two_pow hlt]

theorem wordField_and_of_zeros {mask : Word32} {lo n : Nat} (h : wordField mask lo n = 0) (w : Word32) :
    wordField (w &&& mask) lo n = 0 := by
  unfold wordField at *
  rw [BitVec.extractLsb'_and, BitVec.toNat_and, h, Nat.and_zero]

/-- Every row fixes `RSV`, `OP` and `KIND` (30_encoding.md R79). -/
theorem Mnemonic.heads_and_mask (m : Mnemonic) (w : Word32) : m.Heads (w &&& m.mask) ↔ m.Heads w := by
  have hmask : wordField m.mask 11 5 = 2 ^ 5 - 1 ∧ wordField m.mask 0 4 = 2 ^ 4 - 1 ∧
      wordField m.mask 4 4 = 2 ^ 4 - 1 := by
    unfold mask
    split <;> decide
  obtain ⟨hrsv, hop, hkind⟩ := hmask
  rw [Heads, Heads, wordField_and_of_ones hrsv, wordField_and_of_ones hop, wordField_and_of_ones hkind]

/-- A mask that ignores `BO` and `WO` leaves `OFFSET` and `SLEN` to test. -/
theorem fieldsOf_and_eq_zero_iff {mask : Word32} (hbo : wordField mask 8 1 = 0) (hwo : wordField mask 9 2 = 0)
    (w : Word32) :
    fieldsOf (w &&& mask) = .zero ↔ wordField (w &&& mask) 16 8 = 0 ∧ wordField (w &&& mask) 24 8 = 0 := by
  simp [fieldsOf, OperandFields.zero, wordField_and_of_zeros hbo, wordField_and_of_zeros hwo, ByteOrder.ofCode,
    WordOrder.ofCode]

theorem fieldsOf_and_of_ignored (w : Word32) : fieldsOf (w &&& 0x0000F8FF#32) = .zero :=
  (fieldsOf_and_eq_zero_iff (by decide) (by decide) w).mpr
    ⟨wordField_and_of_zeros (by decide) w, wordField_and_of_zeros (by decide) w⟩

theorem fieldsOf_and_of_slen (w : Word32) : fieldsOf (w &&& 0xFF00F8FF#32) = .zero ↔ (fieldsOf w).slen = 0 := by
  rw [fieldsOf_and_eq_zero_iff (by decide) (by decide), wordField_and_of_zeros (by decide),
    wordField_and_of_ones (by decide)]
  simp [fieldsOf]

theorem fieldsOf_and_of_off_slen (w : Word32) :
    fieldsOf (w &&& 0xFFFFF8FF#32) = .zero ↔ (fieldsOf w).off = 0 ∧ (fieldsOf w).slen = 0 := by
  rw [fieldsOf_and_eq_zero_iff (by decide) (by decide), wordField_and_of_ones (by decide),
    wordField_and_of_ones (by decide)]
  rfl

/-- A row's mask keeps, of the operand fields, those that must be 0 in it (30_encoding.md R79). -/
theorem Mnemonic.fieldsOf_and_mask {m : Mnemonic} (hm : m.hasRow = true) (w : Word32) :
    fieldsOf (w &&& m.mask) = .zero ↔ m.Allows (fieldsOf w) := by
  cases m with
  | nop | toEng | toRaw =>
    rw [show w &&& mask _ = w from BitVec.and_allOnes]
    rfl
  | dec k =>
    by_cases hk : k = .str
    · subst hk
      exact iff_of_true (fieldsOf_and_of_ignored w) (absurd rfl)
    · simpa [mask, Allows, hk] using fieldsOf_and_of_slen w
  | enc k =>
    by_cases hk : k = .str
    · subst hk
      exact iff_of_true (fieldsOf_and_of_ignored w) (absurd rfl)
    · simpa [mask, Allows, hk] using fieldsOf_and_of_off_slen w
  | decs k =>
    have hnum := of_decide_eq_true hm
    exact (fieldsOf_and_of_slen w).trans (and_iff_right hnum).symm
  | encs k =>
    have hnum := of_decide_eq_true hm
    exact (fieldsOf_and_of_off_slen w).trans (and_iff_right hnum).symm

/-- The mask-and-match test of a row is the test of its fields (30_encoding.md R79). -/
theorem selects_iff_reads {r : OpcodeRow} (hr : r ∈ opcodeRows) (w : Word32) :
    w &&& r.mask = r.pattern ↔ r.name.Reads w := by
  obtain ⟨hrow, hmask, hpattern⟩ := opcodeRows_spec r hr
  rw [hmask, hpattern, Mnemonic.eq_word_iff _ ⟨by decide, by decide⟩, Mnemonic.heads_and_mask,
    Mnemonic.fieldsOf_and_mask hrow, Mnemonic.Reads]

/-- Settles O3: both the table and the decoder test the fields the row fixes. -/
theorem wordSelectsTheRowItDecodesTo : Obligations.WordSelectsTheRowItDecodesTo := by
  intro w r hr
  rw [selects_iff_reads hr, reads_iff_decode]

/-- Settles O4: the decoder answers one command, so two rows with a common word have its mnemonic, and a mnemonic has one
row. -/
theorem opcodeRowsAreDisjoint : Obligations.OpcodeRowsAreDisjoint := by
  intro w r r' hr hr' hw hw'
  obtain ⟨i, hi, hname⟩ := (wordSelectsTheRowItDecodesTo w r hr).mp hw
  obtain ⟨i', hi', hname'⟩ := (wordSelectsTheRowItDecodesTo w r' hr').mp hw'
  obtain rfl : i = i' := Except.ok.inj (hi.symm.trans hi')
  exact List.inj_on_of_nodup_map opcodeRows_names_nodup hr hr' (hname.symm.trans hname')

/-! The words of no row. -/

theorem field_eq_wordField (w : Word32) (lo n : Nat) : field w lo n = wordField w lo n := (wordField_eq w lo n).symm

/-- The listed families, with the word's fields under the decoder's names (30_encoding.md R80). -/
theorem illegalByTable_iff_fields (w : Word32) : IllegalByTable w ↔
    wordField w 11 5 ≠ 0 ∨ 7 ≤ wordField w 0 4 ∨
    ((wordField w 0 4 = 1 ∨ wordField w 0 4 = 2) ∧ 10 ≤ wordField w 4 4) ∨
    ((wordField w 0 4 = 5 ∨ wordField w 0 4 = 6) ∧ 8 ≤ wordField w 4 4) ∨
    ((wordField w 0 4 = 0 ∨ wordField w 0 4 = 3 ∨ wordField w 0 4 = 4) ∧ wordField w 4 28 ≠ 0) ∨
    ((wordField w 0 4 = 1 ∨ wordField w 0 4 = 5) ∧ wordField w 4 4 ≤ 8 ∧ (fieldsOf w).slen ≠ 0) ∨
    ((wordField w 0 4 = 2 ∨ wordField w 0 4 = 6) ∧ wordField w 4 4 ≤ 8 ∧
      ((fieldsOf w).off ≠ 0 ∨ (fieldsOf w).slen ≠ 0)) := by
  simp only [IllegalByTable, field_eq_wordField, fieldsOf]

theorem not_reads_of_illegalByTable {w : Word32} (h : IllegalByTable w) (m : Mnemonic) : ¬ m.Reads w := by
  intro hreads
  rw [illegalByTable_iff_fields] at h
  have hcontrol := fun hm => (m.reads_iff_of_no_kind hm w).mp hreads
  obtain ⟨⟨hrsv, hop, hkind⟩, hallows⟩ := hreads
  cases m with
  | nop | toEng | toRaw =>
    obtain ⟨_, _, habove⟩ := hcontrol rfl
    simp only [opCode] at hop
    omega
  | dec k | enc k =>
    have hle := kindCode_le_nine k
    have hstr := kindCode_eq_nine_iff k
    simp only [opCode, Mnemonic.Allows, ne_eq, ← hstr] at hop hallows
    change _ = kindCode k at hkind
    omega
  | decs k | encs k =>
    obtain ⟨hnum, hzero⟩ := hallows
    have hlt := (kindCode_lt_eight_iff k).mpr hnum
    simp only [opCode] at hop
    change _ = kindCode k at hkind
    omega

theorem exists_reads_of_not_illegalByTable {w : Word32} (h : ¬ IllegalByTable w) : ∃ m : Mnemonic, m.Reads w := by
  rw [illegalByTable_iff_fields] at h
  have hrsv : wordField w 11 5 = 0 := by omega
  have hops : wordField w 0 4 = 0 ∨ wordField w 0 4 = 1 ∨ wordField w 0 4 = 2 ∨ wordField w 0 4 = 3 ∨
    wordField w 0 4 = 4 ∨ wordField w 0 4 = 5 ∨ wordField w 0 4 = 6 := by omega
  obtain hop | hop | hop | hop | hop | hop | hop := hops
  · exact ⟨.nop, (Mnemonic.reads_iff_of_no_kind _ rfl w).mpr ⟨hrsv, hop, by omega⟩⟩
  · obtain ⟨k, hk⟩ := exists_kindCode (c := wordField w 4 4) (by omega)
    exact ⟨.dec k, ⟨hrsv, hop, hk⟩, fun hstr => by rw [ne_eq, ← kindCode_eq_nine_iff] at hstr; omega⟩
  · obtain ⟨k, hk⟩ := exists_kindCode (c := wordField w 4 4) (by omega)
    exact ⟨.enc k, ⟨hrsv, hop, hk⟩, fun hstr => by rw [ne_eq, ← kindCode_eq_nine_iff] at hstr; omega⟩
  · exact ⟨.toEng, (Mnemonic.reads_iff_of_no_kind _ rfl w).mpr ⟨hrsv, hop, by omega⟩⟩
  · exact ⟨.toRaw, (Mnemonic.reads_iff_of_no_kind _ rfl w).mpr ⟨hrsv, hop, by omega⟩⟩
  · obtain ⟨k, hk⟩ := exists_kindCode (c := wordField w 4 4) (by omega)
    exact ⟨.decs k, ⟨hrsv, hop, hk⟩, (kindCode_lt_eight_iff k).mp (by omega), by omega⟩
  · obtain ⟨k, hk⟩ := exists_kindCode (c := wordField w 4 4) (by omega)
    exact ⟨.encs k, ⟨hrsv, hop, hk⟩, (kindCode_lt_eight_iff k).mp (by omega), by omega⟩

theorem illegalByTable_iff (w : Word32) : IllegalByTable w ↔ ∀ m : Mnemonic, ¬ m.Reads w := by
  refine ⟨not_reads_of_illegalByTable, fun h => ?_⟩
  by_contra hlegal
  obtain ⟨m, hm⟩ := exists_reads_of_not_illegalByTable hlegal
  exact h m hm

/-- Settles O5: the listed words are those of no row's fields, so no row selects them and the decoder has no answer. -/
theorem illegalWordsAreThoseListed : Obligations.IllegalWordsAreThoseListed := by
  intro w
  rw [illegalByTable_iff]
  constructor
  · constructor
    · exact fun h r hr hw => h r.name ((selects_iff_reads hr w).mp hw)
    · intro h m hm
      obtain ⟨r, hr, rfl⟩ := exists_row hm.2.hasRow
      exact h r hr ((selects_iff_reads hr w).mpr hm)
  · simp only [reads_iff_decode]
    cases hw : decode w with
    | ok i => simp
    | error e => simp

end Sys2Proof
end

section
/-! SUPPORT. The assembler (30_encoding.md R83): a line it accepts has the word of its row and its operands. -/

namespace Sys2Proof

open Sys2Proof.Claims

/-- The operand fields a line names, an omitted operand at its default (30_encoding.md R83, R77). -/
def AsmLine.fields (l : AsmLine) : OperandFields :=
  ⟨l.bo.getD .be, l.wo.getD .abcd, l.off.getD 0, l.n.getD 1 - 1⟩

/-- The line's offset and length lie in their ranges (30_encoding.md R76, R77). -/
def AsmLine.InRange (l : AsmLine) : Prop :=
  (∀ o, l.off = some o → o < 256) ∧ ∀ n, l.n = some n → 1 ≤ n ∧ n ≤ 256

theorem AsmLine.inRange_iff (l : AsmLine) :
    l.InRange ↔ l.off.getD 0 < 256 ∧ 1 ≤ l.n.getD 1 ∧ l.n.getD 1 ≤ 256 := by
  obtain ⟨_, _, _, off, n⟩ := l
  cases off <;> cases n <;> simp [InRange]

theorem AsmLine.InRange.fields {l : AsmLine} (h : l.InRange) : l.fields.InRange := by
  obtain ⟨hoff, _, hle⟩ := l.inRange_iff.mp h
  exact ⟨hoff, by simp only [AsmLine.fields]; omega⟩

/-- The operands a command does not have are omitted, and a length is given exactly where it has one
(30_encoding.md R83). -/
theorem AsmLine.operandsOk_iff (l : AsmLine) : l.operandsOk = true ↔
    (l.name.operands.1 = false → l.bo = none ∧ l.wo = none) ∧ (l.name.operands.2.1 = false → l.off = none) ∧
      (l.name.operands.2.2 = false ↔ l.n = none) := by
  obtain ⟨m, bo, wo, off, n⟩ := l
  simp only [operandsOk, Bool.and_eq_true, Bool.or_eq_true, Option.isNone_iff_eq_none, and_assoc,
    ← Bool.not_eq_true, or_iff_not_imp_left]
  cases n <;> simp

/-- What makes a line fit: its operands have a place, its row exists, its numbers are in range (30_encoding.md R83). -/
theorem lineFits_iff (l : AsmLine) : LineFits l ↔ l.operandsOk = true ∧ l.name.hasRow = true ∧ l.InRange := by
  rw [AsmLine.operandsOk_iff]
  obtain ⟨m, bo, wo, off, n⟩ := l
  cases m with
  | nop | toEng | toRaw =>
    cases n <;> simp +contextual [LineFits, Mnemonic.operands, Mnemonic.hasRow, AsmLine.InRange, and_assoc]
  | dec k =>
    by_cases hk : k = .str
    · subst hk
      cases n <;> simp [LineFits, Mnemonic.operands, Mnemonic.hasRow, AsmLine.InRange, and_assoc]
    · cases n <;> simp [LineFits, Mnemonic.operands, Mnemonic.hasRow, AsmLine.InRange, hk]
  | enc k =>
    by_cases hk : k = .str
    · subst hk
      cases n <;> simp [LineFits, Mnemonic.operands, Mnemonic.hasRow, AsmLine.InRange, and_assoc]
    · cases n <;> simp +contextual [LineFits, Mnemonic.operands, Mnemonic.hasRow, AsmLine.InRange, hk]
  | decs k =>
    cases n <;> simp [LineFits, Mnemonic.operands, Mnemonic.hasRow, AsmLine.InRange, and_assoc]
  | encs k =>
    cases n <;> cases off <;> simp [LineFits, Mnemonic.operands, Mnemonic.hasRow, AsmLine.InRange, and_assoc]

theorem AsmLine.instr_eq {l : AsmLine} (h : 1 ≤ l.n.getD 1) : l.instr = l.name.instr l.fields := by
  obtain ⟨m, bo, wo, off, n⟩ := l
  cases m <;> simp [AsmLine.instr, Mnemonic.instr, fields, Nat.sub_add_cancel h]

/-- The fields a row must have 0 are those its lines have no operand for (30_encoding.md R79, R83). -/
theorem AsmLine.allows_fields {l : AsmLine} (hok : l.operandsOk = true) (hrow : l.name.hasRow = true) :
    l.name.Allows l.fields := by
  obtain ⟨horders, hoff, hn⟩ := l.operandsOk_iff.mp hok
  obtain ⟨m, bo, wo, off, n⟩ := l
  cases m with
  | nop | toEng | toRaw =>
    obtain ⟨rfl, rfl⟩ : bo = none ∧ wo = none := horders rfl
    obtain rfl : off = none := hoff rfl
    obtain rfl : n = none := hn.mp rfl
    rfl
  | dec k =>
    intro hk
    obtain rfl : n = none := hn.mp (by simp [Mnemonic.operands, hk])
    rfl
  | enc k =>
    intro hk
    obtain rfl : off = none := hoff (by simp [Mnemonic.operands, hk])
    obtain rfl : n = none := hn.mp (by simp [Mnemonic.operands, hk])
    exact ⟨rfl, rfl⟩
  | decs k =>
    obtain rfl : n = none := hn.mp rfl
    exact ⟨of_decide_eq_true hrow, rfl⟩
  | encs k =>
    obtain rfl : off = none := hoff rfl
    obtain rfl : n = none := hn.mp rfl
    exact ⟨of_decide_eq_true hrow, rfl, rfl⟩

/-- A line that fits gets its row's word with its operands (30_encoding.md R83). -/
theorem assembleLine_of_fits {l : AsmLine} (h : LineFits l) : assembleLine l = some (l.name.word l.fields) := by
  obtain ⟨hok, hrow, hrange⟩ := (lineFits_iff l).mp h
  obtain ⟨_, hpos, _⟩ := l.inRange_iff.mp hrange
  have hallows := l.allows_fields hok hrow
  obtain ⟨i, hi⟩ := Mnemonic.exists_instr hallows
  have hwf : i.wf = true := Mnemonic.instr_wellFormed hrange.fields hi
  rw [assembleLine, if_pos hok, AsmLine.instr_eq hpos, hi, Option.bind_some, if_pos hwf, encode_of_instr hallows hi]

theorem AsmLine.hasRow_of_instr {l : AsmLine} {i : Instr} (h : l.instr = some i) : l.name.hasRow = true := by
  obtain ⟨m, bo, wo, off, n⟩ := l
  cases m with
  | nop | toEng | toRaw | dec | enc => rfl
  | decs k => exact decide_eq_true (decsOf_eq_some h)
  | encs k => exact decide_eq_true (encsOf_eq_some h)

section Operations
variable {bo : ByteOrder} {wo : WordOrder} {off n : Nat} {k : Kind} {i : Instr}

theorem decOf_wellFormed_iff :
    (decOf bo wo off n k).WellFormed ↔ off < 256 ∧ (k = .str → 1 ≤ n ∧ n ≤ 256) := by
  cases k <;> simp [decOf, Instr.WellFormed, Instr.wf, offsetOk, lengthOk]

theorem encOf_wellFormed_iff :
    (encOf bo wo off n k).WellFormed ↔ (k = .str → off < 256 ∧ 1 ≤ n ∧ n ≤ 256) := by
  cases k <;> simp [encOf, Instr.WellFormed, Instr.wf, offsetOk, lengthOk]

theorem off_lt_of_decsOf_wellFormed (h : decsOf bo wo off k = some i) (hwf : i.WellFormed) : off < 256 := by
  cases k <;> cases h <;> exact of_decide_eq_true hwf

end Operations

/-- Where the command has an operand, the instruction's check is a check of it; where it has none, none is given
(30_encoding.md R83). -/
theorem AsmLine.inRange_of_wellFormed {l : AsmLine} {i : Instr} (hok : l.operandsOk = true) (hi : l.instr = some i)
    (hwf : i.WellFormed) : l.InRange := by
  obtain ⟨horders, hoff, hn⟩ := l.operandsOk_iff.mp hok
  obtain ⟨m, bo, wo, off, n⟩ := l
  have hlen : 1 ≤ 1 ∧ 1 ≤ 256 := by decide
  rw [inRange_iff]
  cases m with
  | nop | toEng | toRaw =>
    obtain rfl : off = none := hoff rfl
    obtain rfl : n = none := hn.mp rfl
    exact ⟨Nat.zero_lt_succ _, hlen⟩
  | dec k =>
    cases hi
    obtain ⟨hoffset, hlength⟩ := decOf_wellFormed_iff.mp hwf
    refine ⟨hoffset, ?_⟩
    by_cases hk : k = .str
    · exact hlength hk
    · obtain rfl : n = none := hn.mp (by simp [Mnemonic.operands, hk])
      exact hlen
  | enc k =>
    cases hi
    by_cases hk : k = .str
    · exact encOf_wellFormed_iff.mp hwf hk
    · obtain rfl : off = none := hoff (by simp [Mnemonic.operands, hk])
      obtain rfl : n = none := hn.mp (by simp [Mnemonic.operands, hk])
      exact ⟨Nat.zero_lt_succ _, hlen⟩
  | decs k =>
    obtain rfl : n = none := hn.mp rfl
    exact ⟨off_lt_of_decsOf_wellFormed hi hwf, hlen⟩
  | encs k =>
    obtain rfl : off = none := hoff rfl
    obtain rfl : n = none := hn.mp rfl
    exact ⟨Nat.zero_lt_succ _, hlen⟩

theorem lineFits_of_assembleLine {l : AsmLine} {w : Word32} (h : assembleLine l = some w) : LineFits l := by
  simp only [assembleLine, Option.ite_none_right_eq_some, Option.bind_eq_some_iff] at h
  obtain ⟨hok, i, hi, hwf, _⟩ := h
  exact (lineFits_iff l).mpr ⟨hok, AsmLine.hasRow_of_instr hi, AsmLine.inRange_of_wellFormed hok hi hwf⟩

theorem ByteOrder.code_eq (bo : ByteOrder) : bo.code = orderCode bo := by cases bo <;> rfl

theorem WordOrder.code_eq (wo : WordOrder) : wo.code = wordOrderCode wo := by cases wo <;> rfl

/-- The word's fields stand at the places the statement gives them (30_encoding.md R71). -/
theorem word_fields_toNat {l : AsmLine} (h : LineFits l) : (l.name.word l.fields).toNat = lineWord l := by
  obtain ⟨_, _, hrange⟩ := (lineFits_iff l).mp h
  obtain ⟨hoff, hslen⟩ := hrange.fields
  rw [Mnemonic.word, commandWord_toNat, Nat.mod_eq_of_lt hoff, Nat.mod_eq_of_lt hslen, Nat.mod_eq_of_lt (opCode_lt _),
    Nat.mod_eq_of_lt (Mnemonic.kindField_lt _), ByteOrder.code_eq, WordOrder.code_eq]
  have hbo : (l.bo.map orderCode).getD 0 = orderCode (l.bo.getD .be) := Option.getD_map orderCode .be l.bo
  have hwo : (l.wo.map wordOrderCode).getD 0 = wordOrderCode (l.wo.getD .abcd) :=
    Option.getD_map wordOrderCode .abcd l.wo
  have hn : (l.n.map (· - 1)).getD 0 = l.n.getD 1 - 1 := Option.getD_map (· - 1) 1 l.n
  simp only [lineWord, AsmLine.fields, Mnemonic.kindField, hbo, hwo, hn]
  ring

/-- Settles O7: the assembler accepts exactly the lines that fit, and a line's word is its row's with its
operands. -/
theorem assemblerRejectsBadOperands : Obligations.AssemblerRejectsBadOperands := by
  intro l
  refine ⟨fun h => ⟨_, assembleLine_of_fits h, word_fields_toNat h⟩, fun h => ?_⟩
  cases hw : assembleLine l with
  | none => rfl
  | some w => exact absurd (lineFits_of_assembleLine hw) h

end Sys2Proof
end

section
/-! SUPPORT. Assembly and disassembly (40_datapath.md R94, R95) as one reordering of the units and its inverse, and the
closed form of the tables R97 and R98: a whole-word byte reversal is a reversal of the units
with their bytes exchanged. -/

namespace Sys2Proof.Machine

open Sys2Proof.Config Sys2Proof.Claims

/-- The reordering that a little-endian byte order adds (40_datapath.md R94): the units reversed and, where the bytes
are what is reversed, their bytes exchanged. -/
def littleStep (p : Params) (bo : ByteOrder) (us : List (BitVec 16)) : List (BitVec 16) :=
  match p.leReading, bo with
  | _, .be => us
  | .unitSwap, .le => us.reverse
  | .byteReverse, .le => (us.map bswap16).reverse

@[simp] theorem littleStep_length (p : Params) (bo : ByteOrder) (us : List (BitVec 16)) :
    (littleStep p bo us).length = us.length := by
  unfold littleStep
  cases p.leReading <;> cases bo <;> simp

@[simp] theorem littleStep_littleStep (p : Params) (bo : ByteOrder) (us : List (BitVec 16)) :
    littleStep p bo (littleStep p bo us) = us := by
  unfold littleStep
  cases p.leReading <;> cases bo <;> simp [Function.comp_def]

theorem joinUnits_cons (u : BitVec 16) (us : List (BitVec 16)) :
    joinUnits (u :: us) = u.toNat * 65536 ^ us.length + joinUnits us := by
  induction us using List.reverseRecOn with
  | nil => simp [joinUnits]
  | append_singleton us v ih =>
    rw [← List.cons_append, joinUnits_append, joinUnits_append, ih, List.length_append, List.length_singleton]
    ring

theorem bswap16_toNat (u : BitVec 16) : (bswap16 u).toNat = u.toNat % 256 * 256 + u.toNat / 256 % 256 := by
  show BitVec.toNat (w := 8 + 8) _ = _
  simp only [bswap16, toNat_append_add, BitVec.extractLsb'_toNat, Nat.shiftRight_eq_div_pow, Nat.pow_zero, Nat.div_one,
    Nat.reducePow]

/-- Reversing the bytes of a word (00_scope.md R9) reverses its units and exchanges the bytes of each. -/
theorem bswapBytes_joinUnits (us : List (BitVec 16)) :
    bswapBytes (2 * us.length) (joinUnits us) = joinUnits (us.map bswap16).reverse := by
  induction us using List.reverseRecOn with
  | nil => rfl
  | append_singleton us u ih =>
    have low : (joinUnits us * 65536 + u.toNat) % 256 = u.toNat % 256 := by omega
    have high : (joinUnits us * 65536 + u.toNat) / 256 % 256 = u.toNat / 256 % 256 := by omega
    have rest : (joinUnits us * 65536 + u.toNat) / 256 / 256 = joinUnits us := by have := u.isLt; omega
    have hpow : (65536 : Nat) ^ us.length = 256 ^ (2 * us.length) := by rw [Nat.pow_mul]
    rw [List.map_append, List.reverse_append, List.map_singleton, List.reverse_singleton, List.singleton_append,
      joinUnits_cons, ← ih, joinUnits_append, List.length_append, List.length_singleton, List.length_reverse,
      List.length_map, hpow, bswap16_toNat, Nat.mul_add, bswapBytes, bswapBytes, low, high, rest]
    ring

/-- `assemble` (40_datapath.md R94): three reorderings of the units, then their concatenation. -/
theorem assemble_eq_joinUnits (p : Params) (wo : WordOrder) (bo : ByteOrder) (us : List (BitVec 16)) :
    assemble p wo bo us = joinUnits (littleStep p bo (reverseStep p wo (swapStep p wo us))) := by
  have h := bswapBytes_joinUnits (reverseStep p wo (swapStep p wo us))
  rw [reverseStep_length, swapStep_length] at h
  unfold assemble littleStep
  cases p.leReading <;> cases bo
  case byteReverse.le => exact h
  all_goals rfl

/-- `disassemble` (40_datapath.md R95): the same reorderings in the opposite order, after the split into units. -/
theorem disassemble_eq_splitUnits (p : Params) (wo : WordOrder) (bo : ByteOrder) (us : List (BitVec 16)) :
    disassemble p wo bo us.length (joinUnits us) = swapStep p wo (reverseStep p wo (littleStep p bo us)) := by
  have h := splitUnits_joinUnits us
  have h' := splitUnits_joinUnits (us.map bswap16).reverse
  rw [List.length_reverse, List.length_map, ← bswapBytes_joinUnits] at h'
  unfold disassemble littleStep
  cases p.leReading <;> cases bo
  case byteReverse.le => exact congrArg (fun vs => swapStep p wo (reverseStep p wo vs)) h'
  all_goals simp only [h]

/-- Disassembling what was assembled gives the units back (40_datapath.md R96). -/
theorem disassemble_assemble (p : Params) (wo : WordOrder) (bo : ByteOrder) (us : List (BitVec 16)) :
    disassemble p wo bo us.length (assemble p wo bo us) = us := by
  have h := disassemble_eq_splitUnits p wo bo (littleStep p bo (reverseStep p wo (swapStep p wo us)))
  rw [← assemble_eq_joinUnits] at h
  simpa using h

/-- Assembling what was disassembled gives the word back (40_datapath.md R96). -/
theorem assemble_disassemble (p : Params) (wo : WordOrder) (bo : ByteOrder) {k w : Nat} (h : w < 2 ^ (16 * k)) :
    assemble p wo bo (disassemble p wo bo k w) = w := by
  have hjoin : joinUnits (splitUnits k w) = w := by
    rw [joinUnits_splitUnits, Nat.mod_eq_of_lt]
    rwa [Nat.pow_mul] at h
  have hdis := disassemble_eq_splitUnits p wo bo (splitUnits k w)
  rw [hjoin, splitUnits_length] at hdis
  rw [hdis, assemble_eq_joinUnits, swapStep_swapStep, reverseStep_reverseStep, littleStep_littleStep, hjoin]

/-- Settles O50, by the two inverse laws, which hold for any number of units. -/
theorem assemblyAndDisassemblyAreInverse : Obligations.AssemblyAndDisassemblyAreInverse := by
  intro p wo bo k _
  refine ⟨fun w hw => assemble_disassemble p wo bo hw, fun us hus => ?_⟩
  rw [← hus]
  exact disassemble_assemble p wo bo us

/-! The closed form of the tables R97 and R98. -/

/-- Two exchanges of the bytes are one or none. -/
theorem byteSwapped_byteSwapped (x y : Bool) (u : BitVec 16) :
    byteSwapped x (byteSwapped y u) = byteSwapped (y ^^ x) u := by
  cases x <;> cases y
  case true.true => exact bswap16_bswap16 u
  all_goals rfl

/-- The word order's byte swap, unit by unit (40_datapath.md R92). -/
theorem swapStep_eq_map (p : Params) (wo : WordOrder) (us : List (BitVec 16)) :
    swapStep p wo us = us.map (byteSwapped (swapsBytes p wo)) := by
  unfold swapStep
  cases swapsBytes p wo
  · exact us.map_id.symm
  · rfl

/-- A little-endian byte order reverses the units and exchanges their bytes under a byte reversal (40_datapath.md
R94). -/
theorem littleStep_eq_map (p : Params) (bo : ByteOrder) (us : List (BitVec 16)) :
    littleStep p bo us =
      (if bo == .le then us.reverse else us).map (byteSwapped (bo == .le && p.leReading == .byteReverse)) := by
  unfold littleStep
  cases bo <;> cases p.leReading
  case le.byteReverse => exact List.map_reverse.symm
  all_goals exact (List.map_id _).symm

theorem revW_map (p : Params) (f : BitVec 16 → BitVec 16) (us : List (BitVec 16)) :
    revW p (us.map f) = (revW p us).map f := by
  obtain _ | ⟨a, _ | ⟨b, _ | ⟨c, _ | ⟨d, _ | ⟨e, us⟩⟩⟩⟩⟩ := us <;> simp only [List.map, revW]
  cases p.wo64 <;> rfl

theorem reverseStep_map (p : Params) (wo : WordOrder) (f : BitVec 16 → BitVec 16) (us : List (BitVec 16)) :
    reverseStep p wo (us.map f) = (reverseStep p wo us).map f := by
  unfold reverseStep
  split
  · exact revW_map p f us
  · rfl

/-- The units of a word in the order of their significance, their bytes as they stand in the window. -/
def arrangedUnits (p : Params) (wo : WordOrder) (bo : ByteOrder) (us : List (BitVec 16)) : List (BitVec 16) :=
  if bo == .le then (reverseStep p wo us).reverse else reverseStep p wo us

/-- Assembly arranges the units and exchanges the bytes of each or of none (40_datapath.md R92 to R94). -/
theorem assemble_eq_arranged (p : Params) (wo : WordOrder) (bo : ByteOrder) (us : List (BitVec 16)) :
    assemble p wo bo us = joinUnits ((arrangedUnits p wo bo us).map (byteSwapped (bytesExchanged p wo bo))) := by
  have exchange : byteSwapped (bo == .le && p.leReading == .byteReverse) ∘ byteSwapped (swapsBytes p wo) =
      byteSwapped (bytesExchanged p wo bo) := funext fun u => byteSwapped_byteSwapped ..
  rw [assemble_eq_joinUnits, swapStep_eq_map, reverseStep_map, littleStep_eq_map, ← List.map_reverse,
    ← apply_ite (List.map _), List.map_map, exchange, arrangedUnits]

theorem joinUnits_two (a b : BitVec 16) : joinUnits [a, b] = (a ++ b).toNat := by
  rw [toNat_append_add]
  simp [joinUnits]

theorem joinUnits_four (a b c d : BitVec 16) : joinUnits [a, b, c, d] = (a ++ b ++ c ++ d).toNat := by
  simp only [toNat_append_add]
  simp [joinUnits]

/-- Two units are exchanged by a reversing word order or by a little-endian byte order, not by both. -/
theorem arrangedUnits_two (p : Params) (wo : WordOrder) (bo : ByteOrder) (a b : BitVec 16) :
    arrangedUnits p wo bo [a, b] = if isReversing wo ^^ (bo == .le) then [b, a] else [a, b] := by
  cases wo <;> cases bo <;> rfl

/-- Two units, assembled (the table of 40_datapath.md R97). -/
theorem assemble_two (p : Params) (wo : WordOrder) (bo : ByteOrder) (a b : BitVec 16) :
    assemble p wo bo [a, b] = (word32 p wo bo a b).toNat := by
  rw [assemble_eq_arranged, arrangedUnits_two, word32]
  split <;> exact joinUnits_two _ _

/-- Four units, assembled (the table of 40_datapath.md R98). -/
theorem assemble_four (p : Params) (wo : WordOrder) (bo : ByteOrder) (a b c d : BitVec 16) :
    assemble p wo bo [a, b, c, d] = (word64 p wo bo a b c d).toNat := by
  have reversing : reverseStep p wo [a, b, c, d] =
      if isReversing wo then (match p.wo64 with | .reverse4 => [d, c, b, a] | .pairSwap => [b, a, d, c])
      else [a, b, c, d] := rfl
  rw [assemble_eq_arranged, arrangedUnits, reversing]
  unfold word64
  cases isReversing wo <;> cases bo <;> cases p.wo64 <;> exact joinUnits_four _ _ _ _

/-- The units that a 32-bit word is disassembled into hold it (40_datapath.md R95, R97). -/
theorem word32_of_disassemble {p : Params} {wo : WordOrder} {bo : ByteOrder} {w : BitVec 32} {a b : BitVec 16}
    (h : disassemble p wo bo 2 w.toNat = [a, b]) : word32 p wo bo a b = w := by
  apply BitVec.eq_of_toNat_eq
  rw [← assemble_two, ← h, assemble_disassemble p wo bo w.isLt]

/-- The units that a 64-bit word is disassembled into hold it (40_datapath.md R95, R98). -/
theorem word64_of_disassemble {p : Params} {wo : WordOrder} {bo : ByteOrder} {w : BitVec 64} {a b c d : BitVec 16}
    (h : disassemble p wo bo 4 w.toNat = [a, b, c, d]) : word64 p wo bo a b c d = w := by
  apply BitVec.eq_of_toNat_eq
  rw [← assemble_four, ← h, assemble_disassemble p wo bo w.isLt]

end Sys2Proof.Machine
end

section
/-! SUPPORT. The decode commands (41_decode.md) and the string copies in the statements' closed forms: unit fetch, the
words of the window, SHORT; and that no command leaves ILL set. -/

namespace Sys2Proof.Machine

open Sys2Proof.Claims

/-- Every command writes a status word of its three flags, which has ILL clear (40_datapath.md R107). -/
theorem effect_status (i : Instr) (s : State) :
    ∃ short degen sat, (effect i s).status = statusWord short degen sat := by
  cases i <;> exact ⟨_, _, _, rfl⟩

/-- Settles O23: a command's answer is its effect, and the effect's status has ILL clear. -/
theorem everyCommandCompletes : Obligations.EveryCommandCompletes := by
  intro i s
  obtain ⟨short, degen, sat, hstatus⟩ := effect_status i s
  refine ⟨_, exec_eq_apply_effect i s, ?_⟩
  calc ((effect i s).apply s).ill = (effect i s).status[0] := rfl
    _ = false := by rw [hstatus, statusWord_ill]

/-- The statements' unit fetch is the model's (40_datapath.md R90). -/
theorem unitRead_eq_unitAt (s : State) (i : Nat) : unitRead s i = unitAt s i := (unitAt_eq s i).symm

/-- The statements' 32-bit word is the one the model assembles (40_datapath.md R97). -/
theorem read32_eq_assembled32 (s : State) (bo : ByteOrder) (wo : WordOrder) (off : Nat) :
    read32 s wo bo off = assembled32 s bo wo off := by
  rw [assembled32, fetchUnits_two, assemble_two, BitVec.ofNat_toNat, BitVec.setWidth_eq, read32, unitRead_eq_unitAt,
    unitRead_eq_unitAt]

/-- The statements' 64-bit word is the one the model assembles (40_datapath.md R98). -/
theorem read64_eq_assembled64 (s : State) (bo : ByteOrder) (wo : WordOrder) (off : Nat) :
    read64 s wo bo off = assembled64 s bo wo off := by
  simp only [assembled64, fetchUnits_four, assemble_four, BitVec.ofNat_toNat, BitVec.setWidth_eq, read64,
    unitRead_eq_unitAt]

/-- `STATUS` after a fetch of at least one unit (40_datapath.md R90, R107). -/
theorem shortStatus_eq_statusWord (s : State) (off : Nat) {k : Nat} (hk : 0 < k) :
    shortStatus s off k = statusWord (fetchShort s off k) false false := by
  rw [fetchShort_eq s off k hk, shortStatus]
  by_cases h : s.rawLen.toNat < off + k
  · rw [if_pos h, decide_eq_true h]; rfl
  · rw [if_neg h, decide_eq_false h]; rfl

/-- Settles O30. -/
theorem decode16BitKinds : Obligations.Decode16BitKinds := by
  intro bo wo off s
  rw [shortStatus_eq_statusWord s off Nat.one_pos, unitRead_eq_unitAt, BitVec.ofNat_toNat]
  exact ⟨rfl, rfl⟩

/-- Settles O31. -/
theorem decode32BitIntegers : Obligations.Decode32BitIntegers := by
  intro bo wo off s
  rw [shortStatus_eq_statusWord s off Nat.two_pos, read32_eq_assembled32, BitVec.ofNat_toNat]
  exact ⟨rfl, rfl⟩

/-- In INTEGER mode a 64-bit integer decodes to the word itself (41_decode.md R125, R126). -/
theorem decoded64_of_integerMode (s : State) (bo : ByteOrder) (wo : WordOrder) (off : Nat) (h : s.int64Mode = true) :
    decodedI64 bo wo off s = ⟨assembled64 s bo wo off, .int, fetchShort s off 4⟩ ∧
      decodedU64 bo wo off s = ⟨assembled64 s bo wo off, .uint, fetchShort s off 4⟩ :=
  ⟨if_pos h, if_pos h⟩

/-- In LEGACY mode a 64-bit integer decodes by the legacy path (41_decode.md R125, R126). -/
theorem decoded64_of_legacyMode (s : State) (bo : ByteOrder) (wo : WordOrder) (off : Nat) (h : s.int64Mode = false) :
    decodedI64 bo wo off s = ⟨legacyDecode s.cfg .i64 (assembled64 s bo wo off), .f64, fetchShort s off 4⟩ ∧
      decodedU64 bo wo off s = ⟨legacyDecode s.cfg .u64 (assembled64 s bo wo off), .f64, fetchShort s off 4⟩ :=
  ⟨if_neg (by simp [h]), if_neg (by simp [h])⟩

theorem legacyDecode_reinterpret {p : Config.Params} (h : p.legacy64 = .reinterpret) (k : Kind) (w : BitVec 64) :
    legacyDecode p k w = w := by
  simp [legacyDecode, h]

theorem legacyDecode_arith {p : Config.Params} (h : p.legacy64 = .arith) (w : BitVec 64) :
    legacyDecode p .i64 w = rne64 w.toInt ∧ legacyDecode p .u64 w = rne64 w.toNat := by
  simp [legacyDecode, h]

theorem exec_decI64 (bo : ByteOrder) (wo : WordOrder) (off : Nat) (s : State) :
    exec (.decI64 bo wo off) s = .next (s.putDecoded (decodedI64 bo wo off s)) := rfl

theorem exec_decU64 (bo : ByteOrder) (wo : WordOrder) (off : Nat) (s : State) :
    exec (.decU64 bo wo off) s = .next (s.putDecoded (decodedU64 bo wo off s)) := rfl

/-- Settles O32, by the mode and, in LEGACY mode, the path. -/
theorem decode64BitIntegers : Obligations.Decode64BitIntegers := by
  intro bo wo off s w
  rw [shortStatus_eq_statusWord s off (k := 4) (by decide), show w = assembled64 s bo wo off from
    read64_eq_assembled64 s bo wo off, exec_decI64, exec_decU64]
  refine ⟨fun hmode => ?integer, fun hmode hpath => ?reinterpret, fun hmode hpath => ?arith⟩
  case integer =>
    obtain ⟨hI, hU⟩ := decoded64_of_integerMode s bo wo off hmode
    rw [hI, hU]
    exact ⟨rfl, rfl⟩
  case reinterpret =>
    obtain ⟨hI, hU⟩ := decoded64_of_legacyMode s bo wo off hmode
    rw [hI, hU, legacyDecode_reinterpret hpath, legacyDecode_reinterpret hpath]
    exact ⟨rfl, rfl⟩
  case arith =>
    obtain ⟨hI, hU⟩ := decoded64_of_legacyMode s bo wo off hmode
    obtain ⟨hi, hu⟩ := legacyDecode_arith hpath (assembled64 s bo wo off)
    rw [hI, hU, hi, hu]
    exact ⟨rfl, rfl⟩

/-- Settles O34. -/
theorem decodeFloat64PassesThrough : Obligations.DecodeFloat64PassesThrough := by
  intro bo wo off s
  rw [shortStatus_eq_statusWord s off (k := 4) (by decide), read64_eq_assembled64]
  rfl

/-- Settles O35: unit 0 is missing exactly when the window is empty. -/
theorem decodeBoolReadsUnitZero : Obligations.DecodeBoolReadsUnitZero := by
  intro bo wo off s
  have hstatus : (if s.rawLen.toNat = 0 then 0x2#4 else 0x0#4) = statusWord (unitMissing s 0) false false := by
    rw [unitMissing]
    by_cases h : s.rawLen.toNat = 0
    · rw [if_pos h, h]; rfl
    · rw [if_neg h, decide_eq_false (by omega)]; rfl
  rw [hstatus, unitRead_eq_unitAt]
  rfl

/-- `OUT[]` after the units fetched from the window were written to it (40_datapath.md R90, R106). -/
theorem writeUnits_fetchUnits_getElem (s : State) (off n j : Nat) (hj : j < 256) :
    (writeUnits s.out 0 (fetchUnits s off n))[j] = if j < n then unitRead s (off + j) else s.out[j] := by
  simp only [writeUnits_getElem _ _ _ _ hj, Nat.zero_le, if_true, Nat.sub_zero, fetchUnits_getElem?, unitRead_eq_unitAt]
  split <;> rfl

/-- Settles O36. -/
theorem stringsAreCopied : Obligations.StringsAreCopied := by
  intro bo wo off n s hn _
  refine ⟨writeUnits s.out 0 (fetchUnits s off n), ?_, ?_, writeUnits_fetchUnits_getElem s off n⟩ <;>
    rw [shortStatus_eq_statusWord s off hn, exec_eq_apply_effect]
  all_goals simp [effect, Effect.apply]

end Sys2Proof.Machine
end

section
/-! SUPPORT. Rounding to an integer (40_datapath.md R104) and the clamp to a kind's range (R105). -/

namespace Sys2Proof.Machine

open Sys2Proof.Config

/-- `roundInt` takes the floor or the next integer: the floor below one half, the next above it, and on a tie the one
that `P_ROUND` names (40_datapath.md R104). -/
theorem roundInt_cases (mode : RoundMode) (x : Int) (u : Nat) :
    (roundInt mode x u = x / u ∧ (2 * (x % u) < u ∨ 2 * (x % u) = u ∧
        ((mode = .tiesEven ∧ x / u % 2 = 0) ∨ (mode = .tiesAway ∧ x < 0)))) ∨
      (roundInt mode x u = x / u + 1 ∧ (u < 2 * (x % u) ∨ 2 * (x % u) = u ∧
        ((mode = .tiesEven ∧ (x / u + 1) % 2 = 0) ∨ (mode = .tiesAway ∧ 0 ≤ x) ∨ mode = .tiesUp))) := by
  unfold roundInt
  by_cases hlow : 2 * (x % u) < u
  · simp [hlow]
  · by_cases hhigh : u < 2 * (x % u)
    · simp [hlow, hhigh]
    · have htie : 2 * (x % u) = u := by omega
      cases mode with
      | tiesEven =>
        by_cases heven : x / u % 2 = 0
        · simp [htie, heven]
        · have : (x / u + 1) % 2 = 0 := by omega
          simp [htie, heven, this]
      | tiesAway => by_cases hx : 0 ≤ x <;> simp [htie, hx, Int.not_le.1]
      | tiesUp => simp [htie]

/-- Settles O51: the integer is the floor or the next one, and `x = (x / u) * u + x % u`. -/
theorem integerRoundingIsNearest : Obligations.IntegerRoundingIsNearest := by
  intro mode x u hu
  have hdm : x / u * u + x % u = x := Int.ediv_mul_add_emod x u
  have hr : 0 ≤ x % u := Int.emod_nonneg x (by omega)
  have hr' : x % u < u := Int.emod_lt_of_pos x (by omega)
  obtain ⟨hq, hside⟩ | ⟨hq, hside⟩ := roundInt_cases mode x u
  · simp only [hq, Int.abs_eq_natAbs]
    refine ⟨by omega, fun htie => ?_⟩
    obtain hlow | ⟨_, ⟨rfl, heven⟩ | ⟨rfl, hneg⟩⟩ := hside
    · omega
    · exact heven
    · dsimp only; omega
  · simp only [hq, Int.abs_eq_natAbs, Int.add_mul, Int.one_mul]
    refine ⟨by omega, fun htie => ?_⟩
    obtain hhigh | ⟨_, ⟨rfl, heven⟩ | ⟨rfl, hpos⟩ | rfl⟩ := hside
    · omega
    · exact heven
    · dsimp only; omega
    · dsimp only; omega

/-- The rounding lies within one half of the exact value, so it passes no integer bound that the value keeps
(40_datapath.md R105). -/
theorem roundInt_bounds (mode : RoundMode) (x b : Int) {u : Nat} (hu : 0 < u) :
    (x ≤ b * u → roundInt mode x u ≤ b) ∧ (b * u ≤ x → b ≤ roundInt mode x u) := by
  obtain ⟨hnear, _⟩ := integerRoundingIsNearest mode x u hu
  rw [Int.abs_eq_natAbs] at hnear
  generalize roundInt mode x u = q at *
  constructor <;> intro hx <;> by_contra hq
  · have : (b + 1) * u ≤ q * u := Int.mul_le_mul_of_nonneg_right (by omega) (by omega)
    rw [Int.add_mul, Int.one_mul] at this; omega
  · have : (q + 1) * u ≤ b * u := Int.mul_le_mul_of_nonneg_right (by omega) (by omega)
    rw [Int.add_mul, Int.one_mul] at this; omega

section Clamp
variable {mode : RoundMode} {d : BitVec 64} {lo hi : Int} {neg : Bool} {m : Nat}

theorem clampRoundInt_nan (h : datum64 d = .nan) : clampRoundInt mode d lo hi = (0, true) := by
  simp [clampRoundInt, h]

theorem clampRoundInt_inf (h : datum64 d = .inf neg) : clampRoundInt mode d lo hi = (if neg then lo else hi, true) := by
  simp [clampRoundInt, h]

theorem clampRoundInt_fin (h : datum64 d = .fin neg m) :
    clampRoundInt mode d lo hi =
      if signed neg m < lo * (2 ^ 1074 : Nat) then (lo, true)
      else if hi * (2 ^ 1074 : Nat) < signed neg m then (hi, true)
      else (roundInt mode (signed neg m) (2 ^ 1074), false) := by
  simp only [clampRoundInt, h, binary64_one]

end Clamp

/-- Clamping to a range before rounding or after it gives the same integer (the inference of 40_datapath.md R105), and
SAT is set outside the range. -/
theorem clamp_then_round {mode : RoundMode} {x lo hi : Int} {u : Nat} {c : Int × Bool}
    (hc : c = if x < lo * u then (lo, true) else if hi * u < x then (hi, true) else (roundInt mode x u, false))
    (hu : 0 < u) (h : lo ≤ hi) :
    c.1 = max lo (min hi (roundInt mode x u)) ∧ (c.2 = true ↔ x < lo * u ∨ hi * u < x) := by
  obtain ⟨below, above⟩ := roundInt_bounds mode x lo hu
  obtain ⟨below', above'⟩ := roundInt_bounds mode x hi hu
  by_cases hlow : x < lo * u
  · have := below hlow.le
    rw [hc, if_pos hlow]
    exact ⟨by omega, by simp [hlow]⟩
  · by_cases hhigh : hi * u < x
    · have := above' hhigh.le
      rw [hc, if_neg hlow, if_pos hhigh]
      exact ⟨by omega, by simp [hhigh]⟩
    · have := above (Int.not_lt.1 hlow)
      have := below' (Int.not_lt.1 hhigh)
      rw [hc, if_neg hlow, if_neg hhigh]
      exact ⟨by omega, by simp [hlow, hhigh]⟩

/-- Settles O52, by the kinds of data. -/
theorem clampThenRoundToRange : Obligations.ClampThenRoundToRange := by
  intro mode d lo hi h
  rw [← datum64]
  cases hd : datum64 d with
  | nan => exact clampRoundInt_nan hd
  | inf neg => exact clampRoundInt_inf hd
  | fin neg m =>
    have hround := clamp_then_round (clampRoundInt_fin (mode := mode) hd) (by positivity) h
    rw [Nat.cast_pow, Nat.cast_ofNat] at hround
    exact hround

end Sys2Proof.Machine
end

section
/-! SUPPORT. What the writes of an encode leave (42_encode.md R140): the output units hold the encoded word in the
statements' closed form of the orders. -/

namespace Sys2Proof.Machine

open Sys2Proof.Claims

/-- `STATUS` after an ENC (40_datapath.md R107). -/
theorem satStatus_eq_statusWord (sat : Bool) : satStatus sat = statusWord false false sat := by cases sat <;> rfl

section Wrote
variable (s : State) (sat : Bool)

/-- `OUT[j]` after an encode: the encoded unit, or the old one past them (40_datapath.md R106). -/
theorem putEncoded_out_getElem (us : List (BitVec 16)) (j : Nat) (hj : j < 256) :
    (s.putEncoded ⟨us, sat⟩ false).out[j] = us[j]?.getD s.out[j] := putUnits_getElem s us j hj

/-- Past the encoded units `OUT[]` is unchanged (40_datapath.md R106). -/
theorem putEncoded_out_rest (us : List (BitVec 16)) (j : Nat) (hj : j < 256) (h : us.length ≤ j) :
    (s.putEncoded ⟨us, sat⟩ false).out[j] = s.out[j] := by
  rw [putEncoded_out_getElem, List.getElem?_eq_none h, Option.getD_none]

theorem wrote1_putEncoded (u : BitVec 16) : Wrote1 s (s.putEncoded ⟨[u], sat⟩ false) u (satStatus sat) := by
  rw [satStatus_eq_statusWord]
  exact ⟨rfl, putEncoded_out_getElem s sat [u] 0 (by decide), putEncoded_out_rest s sat [u]⟩

/-- What the encode of a 32-bit word leaves (40_datapath.md R95, R97). -/
theorem wrote2_putEncoded (bo : ByteOrder) (wo : WordOrder) (w : BitVec 32) :
    Wrote2 s (s.putEncoded ⟨disassembled32 s bo wo w, sat⟩ false) wo bo w (satStatus sat) s.draws := by
  obtain ⟨a, b, hab⟩ := List.length_eq_two.1 (disassembled32_length s bo wo w)
  rw [satStatus_eq_statusWord, hab]
  refine ⟨rfl, ?_, putEncoded_out_rest s sat [a, b]⟩
  rw [putEncoded_out_getElem, putEncoded_out_getElem]
  exact word32_of_disassemble hab

/-- What the encode of a 64-bit word leaves (40_datapath.md R95, R98). -/
theorem wrote4_putEncoded (bo : ByteOrder) (wo : WordOrder) (w : BitVec 64) :
    Wrote4 s (s.putEncoded ⟨disassembled64 s bo wo w, sat⟩ false) wo bo w (satStatus sat) := by
  obtain ⟨a, b, c, d, habcd⟩ := List.length_eq_four.1 (disassembled64_length s bo wo w)
  rw [satStatus_eq_statusWord, habcd]
  refine ⟨rfl, ?_, putEncoded_out_rest s sat [a, b, c, d]⟩
  simp only [putEncoded_out_getElem]
  exact word64_of_disassemble habcd

end Wrote

/-- Taking a draw advances the draw counter and nothing else (notes/assumptions/1.md). -/
theorem wrote2_drawn {s t : State} {wo : WordOrder} {bo : ByteOrder} {w : BitVec 32} {status : BitVec 4} {draws : Nat}
    (h : Wrote2 s t wo bo w status draws) : Wrote2 s t.drawn wo bo w status (draws + 1) := by
  obtain ⟨hstate, hword, hrest⟩ := h
  refine ⟨?_, hword, hrest⟩
  rw [hstate]
  rfl

/-- Settles O37. -/
theorem encode16BitKinds : Obligations.Encode16BitKinds :=
  fun _ _ s => ⟨⟨_, rfl, wrote1_putEncoded s _ _⟩, ⟨_, rfl, wrote1_putEncoded s _ _⟩⟩

/-- Settles O38. -/
theorem encode32BitIntegers : Obligations.Encode32BitIntegers :=
  fun bo wo s => ⟨⟨_, rfl, wrote2_putEncoded s _ bo wo _⟩, ⟨_, rfl, wrote2_putEncoded s _ bo wo _⟩⟩

/-- In INTEGER mode and on the legacy path under ARITH the integer itself is encoded (40_datapath.md R108). -/
theorem encoded64_of_integer {s : State} (h : s.int64Mode = true ∨ s.cfg.legacy64 = .arith) (bo : ByteOrder)
    (wo : WordOrder) (v : BitVec 64) :
    encodedI64 bo wo v s =
        ⟨disassembled64 s bo wo (BitVec.ofInt 64 (clampToKind s .i64 v).1), (clampToKind s .i64 v).2⟩ ∧
      encodedU64 bo wo v s =
        ⟨disassembled64 s bo wo (BitVec.ofInt 64 (clampToKind s .u64 v).1), (clampToKind s .u64 v).2⟩ := by
  cases hmode : s.int64Mode with
  | true => simp [encodedI64, encodedU64, hmode]
  | false =>
    have hpath : s.cfg.legacy64 = .arith := h.resolve_left (by simp [hmode])
    simp [encodedI64, encodedU64, hmode, legacyEncode, hpath, clampToKind]

/-- On the legacy path under REINTERPRET the binary64 of the integer is encoded (40_datapath.md R108). -/
theorem encoded64_of_reinterpret {s : State} (hmode : s.int64Mode = false) (hpath : s.cfg.legacy64 = .reinterpret)
    (bo : ByteOrder) (wo : WordOrder) (v : BitVec 64) :
    encodedI64 bo wo v s =
        ⟨disassembled64 s bo wo (rne64 (clampToKind s .i64 v).1), (clampToKind s .i64 v).2⟩ ∧
      encodedU64 bo wo v s =
        ⟨disassembled64 s bo wo (rne64 (clampToKind s .u64 v).1), (clampToKind s .u64 v).2⟩ := by
  simp [encodedI64, encodedU64, hmode, legacyEncode, hpath, clampToKind]

theorem exec_encI64 (bo : ByteOrder) (wo : WordOrder) (s : State) :
    exec (.encI64 bo wo) s = .next (s.putEncoded (encodedI64 bo wo s.val s) false) := rfl

theorem exec_encU64 (bo : ByteOrder) (wo : WordOrder) (s : State) :
    exec (.encU64 bo wo) s = .next (s.putEncoded (encodedU64 bo wo s.val s) false) := rfl

/-- Settles O39, by the two paths. -/
theorem encode64BitIntegers : Obligations.Encode64BitIntegers := by
  intro bo wo s i u
  rw [exec_encI64, exec_encU64]
  refine ⟨fun h => ?integer, fun ⟨hmode, hpath⟩ => ?reinterpret⟩
  case integer =>
    obtain ⟨hI, hU⟩ := encoded64_of_integer (s := s) h bo wo s.val
    rw [hI, hU]
    exact ⟨⟨_, rfl, wrote4_putEncoded s _ bo wo _⟩, ⟨_, rfl, wrote4_putEncoded s _ bo wo _⟩⟩
  case reinterpret =>
    obtain ⟨hI, hU⟩ := encoded64_of_reinterpret (s := s) hmode hpath bo wo s.val
    rw [hI, hU]
    exact ⟨⟨_, rfl, wrote4_putEncoded s _ bo wo _⟩, ⟨_, rfl, wrote4_putEncoded s _ bo wo _⟩⟩

/-- Settles O41. -/
theorem encodeFloat64StoresVal : Obligations.EncodeFloat64StoresVal :=
  fun bo wo s => ⟨_, rfl, wrote4_putEncoded s false bo wo s.val⟩

end Sys2Proof.Machine
end

section
/-! SUPPORT. A pattern by its sign and magnitude (00_scope.md R12), the conversions between binary32 and binary64
(40_datapath.md R101, R102), and the zero test of ENC.BOOL (42_encode.md R149). -/

namespace Sys2Proof.Machine

theorem infPattern_lt_signWeight (f : Format) : f.infPattern < f.signWeight := by
  have := infPattern_add f
  have := Nat.two_pow_pos f.fracBits
  omega

theorem withSign_div (f : Format) (neg : Bool) {m : Nat} (h : m < f.signWeight) :
    (f.withSign neg m / f.signWeight % 2 == 1) = neg := by
  cases neg <;> simp [Format.withSign, Nat.add_div_left _ f.signWeight_pos, Nat.div_eq_of_lt h]

/-- The pattern of an infinity decodes to it (00_scope.md R12). -/
theorem decode_infPattern (f : Format) (neg : Bool) : f.decode (f.withSign neg f.infPattern) = .inf neg := by
  have hsign := withSign_div f neg (infPattern_lt_signWeight f)
  have hfrac : f.withSign neg f.infPattern % 2 ^ f.fracBits = 0 := by
    cases neg <;> simp [Format.withSign, Format.infPattern, Format.signWeight_eq]
  have hexp : f.withSign neg f.infPattern / 2 ^ f.fracBits % 2 ^ f.expBits = 2 ^ f.expBits - 1 := by
    have hlt : 2 ^ f.expBits - 1 < 2 ^ f.expBits := Nat.sub_one_lt (Nat.two_pow_pos _).ne'
    cases neg <;> simp [Format.withSign, Format.infPattern, Format.signWeight_eq, Nat.mul_add_div, Nat.mod_eq_of_lt hlt]
  unfold Format.decode
  simp only [hsign, hfrac, hexp, if_true]

/-- Every pattern is a sign with a magnitude below infinity's, an infinity or a NaN (00_scope.md R12). -/
theorem decode_cases (f : Format) {b : Nat} (hb : b < 2 * f.signWeight) :
    (∃ neg, ∃ q < f.infPattern, b = f.withSign neg q ∧ f.decode b = .fin neg (f.magOf q)) ∨
      (∃ neg, b = f.withSign neg f.infPattern ∧ f.decode b = .inf neg) ∨ f.decode b = .nan := by
  have hsplit := withSign_sign_mod f b hb
  generalize (b / f.signWeight % 2 == 1) = neg at hsplit
  obtain hq | hq | hq := Nat.lt_trichotomy (b % f.signWeight) f.infPattern
  · have h := decode_finite f neg _ hq
    rw [hsplit] at h
    exact .inl ⟨neg, _, hq, hsplit.symm, h⟩
  · rw [hq] at hsplit
    have h := decode_infPattern f neg
    rw [hsplit] at h
    exact .inr (.inl ⟨neg, hsplit.symm, h⟩)
  · exact .inr (.inr ((decode_eq_nan_iff f b).2 hq))

/-- The pattern of a finite datum (00_scope.md R12). -/
theorem pattern_of_decode_fin {f : Format} {b m : Nat} {neg : Bool} (hb : b < 2 * f.signWeight)
    (h : f.decode b = .fin neg m) : ∃ q < f.infPattern, b = f.withSign neg q ∧ m = f.magOf q := by
  obtain ⟨_, q, hq, hpattern, h'⟩ | ⟨_, _, h'⟩ | h' := decode_cases f hb <;> rw [h'] at h <;> cases h
  exact ⟨q, hq, hpattern, rfl⟩

/-- The pattern of an infinity (00_scope.md R12). -/
theorem pattern_of_decode_inf {f : Format} {b : Nat} {neg : Bool} (hb : b < 2 * f.signWeight)
    (h : f.decode b = .inf neg) : b = f.withSign neg f.infPattern := by
  obtain ⟨_, _, _, _, h'⟩ | ⟨_, hpattern, h'⟩ | h' := decode_cases f hb <;> rw [h'] at h <;> cases h
  exact hpattern

/-! The zero test of ENC.BOOL (42_encode.md R149). -/

/-- Only the pattern 0 has magnitude 0. -/
theorem magOf_eq_zero_iff (f : Format) (q : Nat) : f.magOf q = 0 ↔ q = 0 := by
  have hzero : f.magOf 0 = 0 := by simp [Format.magOf]
  rw [← hzero, (magOf_strictMono f).injective.eq_iff, hzero]

/-- The zeros are the two patterns without a magnitude (00_scope.md R12). -/
theorem datum64_eq_zero_iff (b : BitVec 64) :
    (∃ neg, datum64 b = .fin neg 0) ↔ b = 0x0000000000000000#64 ∨ b = 0x8000000000000000#64 := by
  constructor
  · rintro ⟨neg, h⟩
    obtain ⟨q, _, hpattern, hmag⟩ := pattern_of_decode_fin b.isLt h
    rw [(magOf_eq_zero_iff binary64 q).1 hmag.symm] at hpattern
    cases neg
    · exact .inl (BitVec.eq_of_toNat_eq hpattern)
    · exact .inr (BitVec.eq_of_toNat_eq hpattern)
  · rintro (rfl | rfl)
    · exact ⟨false, by decide⟩
    · exact ⟨true, by decide⟩

theorem signed_eq_zero_iff (neg : Bool) (m : Nat) : signed neg m = 0 ↔ m = 0 := by
  cases neg <;> simp [signed]

/-- ENC.BOOL's test, a NaN or not equal to 0, fails for the zeros alone (42_encode.md R149). -/
theorem boolTest_eq_false_iff (b : BitVec 64) :
    (isNaN64 b || !eq64 b 0#64) = false ↔ ∃ neg, datum64 b = .fin neg 0 := by
  have hzero : datum64 0#64 = .fin false 0 := by decide
  cases h : datum64 b with
  | nan => simp [isNaN64, h]
  | inf neg => simp [eq64_inf_fin h hzero]
  | fin neg m =>
    have heq : eq64 b 0#64 = true ↔ m = 0 := (eq64_fin_fin h hzero).trans (signed_eq_zero_iff neg m)
    simp [isNaN64, h, heq]

/-- Settles O42. -/
theorem encodeBoolTestsForZero : Obligations.EncodeBoolTestsForZero := by
  intro bo wo s
  have test : (if s.val = 0x0000000000000000#64 ∨ s.val = 0x8000000000000000#64 then 0 else 1) =
      if isNaN64 s.val || !eq64 s.val 0 then 1#16 else 0#16 := by
    simp only [← datum64_eq_zero_iff, ← boolTest_eq_false_iff]
    cases isNaN64 s.val || !eq64 s.val 0 <;> rfl
  rw [test]
  exact ⟨_, rfl, wrote1_putEncoded s false _⟩

/-! The conversions. -/

/-- Rounding depends on the quotient alone. -/
theorem roundDivEven_mul_mul (n d : Nat) {c : Nat} (hc : 0 < c) : roundDivEven (n * c) (d * c) = roundDivEven n d := by
  have scale (x y : Nat) : x * c < y * c ↔ x < y := Nat.mul_lt_mul_right hc
  simp only [roundDivEven, Nat.mul_div_mul_right _ _ hc, Nat.mul_mod_mul_right, ← Nat.mul_assoc, scale]

theorem roundMag_mul_mul (f : Format) (n d : Nat) {c : Nat} (hc : 0 < c) :
    f.roundMag (n * c) (d * c) = f.roundMag n d := by
  simp only [Format.roundMag, Nat.mul_div_mul_right _ _ hc, Nat.mul_right_comm d c, roundDivEven_mul_mul _ _ hc]

/-- What the pattern of a binary32 result holds. -/
theorem toNat_pattern32 (neg : Bool) {q : Nat} (h : q ≤ binary32.infPattern) :
    (BitVec.ofNat 32 (binary32.withSign neg q)).toNat = binary32.withSign neg q := by
  rw [BitVec.toNat_ofNat, Nat.mod_eq_of_lt]
  exact withSign_lt binary32 neg (h.trans_lt (infPattern_lt_signWeight binary32))

theorem cvt64to32_nan {nan : BitVec 32} {b : BitVec 64} (h : datum64 b = .nan) : cvt64to32 nan b = nan := by
  simp [cvt64to32, h]

theorem cvt64to32_inf {nan : BitVec 32} {b : BitVec 64} {neg : Bool} (h : datum64 b = .inf neg) :
    cvt64to32 nan b = BitVec.ofNat 32 (binary32.withSign neg binary32.infPattern) := by
  simp [cvt64to32, h]

/-- A binary32 smallest subnormal is 2^925 binary64 ones (40_datapath.md R102). -/
theorem cvt64to32_fin {nan : BitVec 32} {b : BitVec 64} {neg : Bool} {m : Nat} (h : datum64 b = .fin neg m) :
    cvt64to32 nan b = BitVec.ofNat 32 (binary32.withSign neg (binary32.roundMag m (2 ^ 925))) := by
  have ratio : binary64.one = 2 ^ 925 * 2 ^ 149 := by rw [binary64_one, ← Nat.pow_add]
  simp only [cvt64to32, h, ratio, binary32_one, roundMag_mul_mul _ _ _ (Nat.two_pow_pos 149)]

theorem cvt32to64_nan {nan : BitVec 64} {b : BitVec 32} (h : datum32 b = .nan) : cvt32to64 nan b = nan := by
  simp [cvt32to64, h]

theorem cvt32to64_inf {nan : BitVec 64} {b : BitVec 32} {neg : Bool} (h : datum32 b = .inf neg) :
    cvt32to64 nan b = inf64 neg := by
  simp [cvt32to64, h]

theorem cvt32to64_fin {nan : BitVec 64} {b : BitVec 32} {neg : Bool} {m : Nat} (h : datum32 b = .fin neg m) :
    cvt32to64 nan b = round64 neg (m * 2 ^ 925) 1 := by
  have ratio : binary64.one = 2 ^ 925 * 2 ^ 149 := by rw [binary64_one, ← Nat.pow_add]
  have h1 := roundMag_mul_mul binary64 (m * 2 ^ 925) 1 (Nat.two_pow_pos 149)
  rw [Nat.one_mul] at h1
  simp only [cvt32to64, h, ratio, binary32_one, round64, ← Nat.mul_assoc, h1]

/-- Magnitudes far below the overflow threshold of a format. -/
theorem two_pow_le_overflowThreshold (f : Format) : 2 ^ (2 ^ f.expBits - 4) ≤ f.overflowThreshold := by
  have htwo : 2 ^ 1 ≤ 2 ^ (f.fracBits + 2) := Nat.pow_le_pow_right (by decide) (by omega)
  exact Nat.le_mul_of_pos_left _ (by omega)

/-- A magnitude that fits the precision, scaled by a power of two, is rounded to itself. -/
theorem datum64_round64_exact (neg : Bool) {k z : Nat} (hk : k ≤ 2 ^ 53)
    (h : k * 2 ^ z < 2 ^ (2 ^ binary64.expBits - 4)) :
    datum64 (round64 neg (k * 2 ^ z) 1) = .fin neg (k * 2 ^ z) := by
  obtain ⟨heq, hfin⟩ := roundMag_finite (f := binary64) (by decide) (by decide) Nat.one_pos
    (by rw [Nat.mul_one]; exact h.trans_le (two_pow_le_overflowThreshold binary64))
  have hdvd := two_pow_excess_dvd binary64 z hk
  have hexact := magOf_unbounded_of_dvd binary64 (k * 2 ^ z) 1 Nat.one_pos (by rwa [Nat.one_mul])
  rw [Nat.mul_one] at hexact
  rw [datum64_round64 _ hfin, heq, hexact]

/-- A finite binary32 value has 24 significant bits and one of 255 exponents (00_scope.md R12). -/
theorem binary32_magnitude {q : Nat} (hq : q < binary32.infPattern) :
    ∃ k sh, binary32.magOf q = k * 2 ^ sh ∧ k < 2 ^ 24 ∧ sh < 255 := by
  obtain ⟨sh, k, rfl, hlow, hhigh⟩ := exists_binade binary32 q
  rw [binary32_infPattern] at hq
  exact ⟨k, sh, magOf_binade binary32 sh k hlow hhigh.le, hhigh, by simp only [binary32] at hq; omega⟩

/-- The conversion to binary64 is exact (40_datapath.md R101). -/
theorem datum64_cvt32to64 {nan : BitVec 64} {b : BitVec 32} {neg : Bool} {m : Nat} (h : datum32 b = .fin neg m) :
    datum64 (cvt32to64 nan b) = .fin neg (m * 2 ^ 925) := by
  obtain ⟨q, hq, _, rfl⟩ := pattern_of_decode_fin (f := binary32) b.isLt h
  obtain ⟨k, sh, hmag, hk, hsh⟩ := binary32_magnitude hq
  have hexp : 2 ^ binary64.expBits - 4 = 2044 := by decide
  rw [cvt32to64_fin h, hmag, Nat.mul_assoc, ← Nat.pow_add]
  exact datum64_round64_exact neg (hk.le.trans (by decide)) (mul_two_pow_lt hk (by omega))

/-- Settles O33, by the kinds of binary32 data. -/
theorem decodeFloat32IsExact : Obligations.DecodeFloat32IsExact := by
  intro bo wo off s
  rw [shortStatus_eq_statusWord s off Nat.two_pos, read32_eq_assembled32, ← datum32]
  refine ⟨cvt32to64 s.nan64 (assembled32 s bo wo off), rfl, ?_⟩
  cases h : datum32 (assembled32 s bo wo off) with
  | nan =>
    obtain ⟨hdraw, _⟩ := drawsRangeOverTheNaNs.1 s.draws
    rw [cvt32to64_nan h]
    exact (isNaN64_iff _).1 hdraw
  | inf neg => exact (congrArg datum64 (cvt32to64_inf h)).trans (datum64_inf64 neg)
  | fin neg m => exact datum64_cvt32to64 h

/-- Settles O40, by the kinds of binary64 data. -/
theorem encodeFloat32Rounds : Obligations.EncodeFloat32Rounds := by
  intro bo wo s
  refine ⟨_, cvt64to32 s.nan32 s.val, rfl, wrote2_drawn (wrote2_putEncoded s false bo wo _), ?_⟩
  rw [← datum64]
  cases h : datum64 s.val with
  | nan =>
    obtain ⟨_, hdraw⟩ := drawsRangeOverTheNaNs.1 s.draws
    rw [cvt64to32_nan h]
    exact (isNaN32_iff _).1 hdraw
  | inf neg =>
    dsimp only
    rw [cvt64to32_inf h, toNat_pattern32 neg le_rfl, decode_infPattern]
  | fin neg m =>
    dsimp only
    rw [cvt64to32_fin h, toNat_pattern32 neg (roundMag_eq_min binary32 .. ▸ Nat.min_le_right ..), Format.withSign,
      binary32_signWeight]

/-- Settles O59: an infinity keeps its pattern, and a finite value is rounded back to the pattern that holds it. -/
theorem float32RoundTrip : Obligations.Float32RoundTrip := by
  intro nan nan' b hb
  cases h : datum32 b with
  | nan => simp [isNaN32, h] at hb
  | inf neg =>
    rw [cvt32to64_inf h, cvt64to32_inf (datum64_inf64 neg), ← pattern_of_decode_inf (f := binary32) b.isLt h,
      BitVec.ofNat_toNat, BitVec.setWidth_eq]
  | fin neg m =>
    obtain ⟨q, hq, hpattern, rfl⟩ := pattern_of_decode_fin (f := binary32) b.isLt h
    rw [cvt64to32_fin (datum64_cvt32to64 h), roundMag_exact binary32 q _ (Nat.two_pow_pos 925) hq, ← hpattern,
      BitVec.ofNat_toNat, BitVec.setWidth_eq]

end Sys2Proof.Machine
end

section
/-! SUPPORT. What a decode reads of an encode's output copied back to the window, and the round trips (40_datapath.md
R96, 42_encode.md R141 to R148). -/

namespace Sys2Proof.Machine

open Sys2Proof.Config Sys2Proof.Claims

section CopiedBack
variable {s t : State} {bo : ByteOrder} {wo : WordOrder} {status : BitVec 4} {draws : Nat}

/-- A unit of the output, copied back, is read from the window. -/
theorem unitRead_copiedBack {j : Nat} (h : j < 256) (hj : j < t.outLen.toNat) :
    unitRead (copiedBack t) j = t.out[j] := by
  simp [unitRead, copiedBack, h, hj]

/-- A decode of no more units than were written is not short. -/
theorem shortStatus_copiedBack {k : Nat} (h : k ≤ t.outLen.toNat) : shortStatus (copiedBack t) 0 k = 0 :=
  if_neg (by show ¬ t.outLen.toNat < 0 + k; omega)

theorem readback_of_wrote1 {u : BitVec 16} (h : Wrote1 s t u status) :
    unitRead (copiedBack t) 0 = u ∧ shortStatus (copiedBack t) 0 1 = 0 := by
  obtain ⟨hstate, hunit, _⟩ := h
  have hlen : t.outLen.toNat = 1 := congrArg (fun r => r.outLen.toNat) hstate
  exact ⟨(unitRead_copiedBack (by decide) (by omega)).trans hunit, shortStatus_copiedBack (by omega)⟩

theorem readback_of_wrote2 {w : BitVec 32} (h : Wrote2 s t wo bo w status draws) :
    read32 (copiedBack t) wo bo 0 = w ∧ shortStatus (copiedBack t) 0 2 = 0 := by
  obtain ⟨hstate, hword, _⟩ := h
  have hlen : t.outLen.toNat = 2 := congrArg (fun r => r.outLen.toNat) hstate
  have hcfg : (copiedBack t).cfg = s.cfg := (congrArg State.cfg hstate :)
  refine ⟨?_, shortStatus_copiedBack (by omega)⟩
  rw [read32, unitRead_copiedBack (by decide) (by omega), unitRead_copiedBack (by decide) (by omega), hcfg, hword]

theorem readback_of_wrote4 {w : BitVec 64} (h : Wrote4 s t wo bo w status) :
    read64 (copiedBack t) wo bo 0 = w ∧ shortStatus (copiedBack t) 0 4 = 0 := by
  obtain ⟨hstate, hword, _⟩ := h
  have hlen : t.outLen.toNat = 4 := congrArg (fun r => r.outLen.toNat) hstate
  have hcfg : (copiedBack t).cfg = s.cfg := (congrArg State.cfg hstate :)
  refine ⟨?_, shortStatus_copiedBack (by omega)⟩
  rw [read64, unitRead_copiedBack (by decide) (by omega), unitRead_copiedBack (by decide) (by omega),
    unitRead_copiedBack (by decide) (by omega), unitRead_copiedBack (by decide) (by omega), hcfg, hword]

/-- What the 16-bit decodes make of one unit copied back. -/
theorem exec_dec16_copiedBack (bo : ByteOrder) (wo : WordOrder) {u : BitVec 16} (h : Wrote1 s t u status) :
    exec (.decI16 bo wo 0) (copiedBack t) =
        .next { copiedBack t with res := BitVec.ofInt 64 u.toInt, resType := .int, status := 0 } ∧
      exec (.decU16 bo wo 0) (copiedBack t) =
        .next { copiedBack t with res := BitVec.ofNat 64 u.toNat, resType := .uint, status := 0 } := by
  obtain ⟨hread, hshort⟩ := readback_of_wrote1 h
  have hdec := decode16BitKinds bo wo 0 (copiedBack t)
  rwa [hread, hshort] at hdec

/-- What the 32-bit integer decodes make of two units copied back, in the orders they were written in. -/
theorem exec_dec32_copiedBack {w : BitVec 32} (h : Wrote2 s t wo bo w status draws) :
    exec (.decI32 bo wo 0) (copiedBack t) =
        .next { copiedBack t with res := BitVec.ofInt 64 w.toInt, resType := .int, status := 0 } ∧
      exec (.decU32 bo wo 0) (copiedBack t) =
        .next { copiedBack t with res := BitVec.ofNat 64 w.toNat, resType := .uint, status := 0 } := by
  obtain ⟨hread, hshort⟩ := readback_of_wrote2 h
  have hdec := decode32BitIntegers bo wo 0 (copiedBack t)
  rwa [hread, hshort] at hdec

end CopiedBack

/-- Settles O58. -/
theorem float64RoundTrip : Obligations.Float64RoundTrip := by
  intro bo wo s
  obtain ⟨t, henc, hwrote⟩ := encodeFloat64StoresVal bo wo s
  obtain ⟨hread, hshort⟩ := readback_of_wrote4 hwrote
  exact ⟨t, _, henc, decodeFloat64PassesThrough bo wo 0 (copiedBack t), hread, rfl, hshort⟩

/-- An integer is its own rounding (40_datapath.md R104). -/
theorem roundInt_mul (mode : RoundMode) (v : Int) {u : Nat} (hu : 0 < u) : roundInt mode (v * u) u = v := by
  obtain ⟨below, above⟩ := roundInt_bounds mode (v * u) v hu
  exact le_antisymm (below le_rfl) (above le_rfl)

/-- The exact value of an integer's sign and magnitude. -/
theorem signed_natAbs_mul (v : Int) (u : Nat) : signed (decide (v < 0)) (v.natAbs * u) = v * u := by
  by_cases hneg : v < 0
  · have hv : -(v.natAbs : Int) = v := by omega
    rw [decide_eq_true hneg, signed, if_pos rfl, Nat.cast_mul, ← Int.neg_mul, hv]
  · have hv : (v.natAbs : Int) = v := by omega
    rw [decide_eq_false hneg, signed, if_neg Bool.false_ne_true, Nat.cast_mul, hv]

/-- An integer that binary64 holds exactly and the range admits passes the clamp and the rounding (40_datapath.md R103,
R105). -/
theorem clampRoundInt_rne64 (mode : RoundMode) {v lo hi : Int} (hv : |v| ≤ 2 ^ 53) (hlo : lo ≤ v) (hhi : v ≤ hi) :
    clampRoundInt mode (rne64 v) lo hi = (v, false) := by
  have hlo' : lo * (2 ^ 1074 : Nat) ≤ v * (2 ^ 1074 : Nat) := Int.mul_le_mul_of_nonneg_right hlo (Int.natCast_nonneg _)
  have hhi' : v * (2 ^ 1074 : Nat) ≤ hi * (2 ^ 1074 : Nat) := Int.mul_le_mul_of_nonneg_right hhi (Int.natCast_nonneg _)
  rw [clampRoundInt_fin (datum64_rne64_exact hv), signed_natAbs_mul, if_neg hlo'.not_gt, if_neg hhi'.not_gt,
    roundInt_mul mode v (by positivity)]

/-- An integer's low bits, sign-extended, where they hold it (41_decode.md R121, R123). -/
theorem toInt_ofInt_toInt {v : Int} {n : Nat} (hn : n < 64) (hlo : -2 ^ n ≤ v) (hhi : v < 2 ^ n) :
    (BitVec.ofInt 64 (BitVec.ofInt (n + 1) v).toInt).toInt = v := by
  have hself : (BitVec.ofInt (n + 1) v).toInt = v := BitVec.toInt_ofInt_eq_self n.succ_pos hlo hhi
  exact (BitVec.toInt_signExtend_of_le (show n + 1 ≤ 64 from hn)).trans hself

/-- An integer's low bits, zero-extended, where they hold it (41_decode.md R122, R124). -/
theorem toNat_ofNat_toNat {v : Int} {n : Nat} (hn : n ≤ 64) (hlo : 0 ≤ v) (hhi : v < 2 ^ n) :
    ((BitVec.ofNat 64 (BitVec.ofInt n v).toNat).toNat : Int) = v := by
  rw [BitVec.ofNat_toNat, BitVec.toNat_setWidth_of_le hn, BitVec.toNat_ofInt, Nat.cast_pow, Nat.cast_ofNat,
    Int.emod_eq_of_lt hlo hhi, Int.toNat_of_nonneg hlo]

/-- Settles O57: each ENC writes the integer's low bits, and its DEC extends them to the integer. -/
theorem integersRoundTrip : Obligations.IntegersRoundTrip := by
  intro bo wo v s hval
  have kept {lo hi : Int} (hlo : lo ≤ v) (hhi : v ≤ hi) (hlo' : -2 ^ 53 ≤ lo) (hhi' : hi ≤ 2 ^ 53) :
      clampRoundInt s.cfg.round s.val lo hi = (v, false) := by
    rw [hval]
    exact clampRoundInt_rne64 _ (abs_le.2 ⟨hlo'.trans hlo, hhi.trans hhi'⟩) hlo hhi
  obtain ⟨⟨t, ht, hI16⟩, t', ht', hU16⟩ := encode16BitKinds bo wo s
  obtain ⟨⟨r, hr, hI32⟩, r', hr', hU32⟩ := encode32BitIntegers bo wo s
  refine ⟨fun hlo hhi => ?i16, fun hlo hhi => ?u16, fun hlo hhi => ?i32, fun hlo hhi => ?u32⟩
  case i16 =>
    rw [kept hlo hhi (by norm_num) (by norm_num)] at hI16
    exact ⟨t, _, ht, (exec_dec16_copiedBack bo wo hI16).1,
      toInt_ofInt_toInt (n := 15) (by decide) hlo (Int.lt_add_one_of_le hhi), rfl, rfl⟩
  case u16 =>
    rw [kept hlo hhi (by norm_num) (by norm_num)] at hU16
    exact ⟨t', _, ht', (exec_dec16_copiedBack bo wo hU16).2,
      toNat_ofNat_toNat (n := 16) (by decide) hlo (Int.lt_add_one_of_le hhi), rfl, rfl⟩
  case i32 =>
    rw [kept hlo hhi (by norm_num) (by norm_num)] at hI32
    exact ⟨r, _, hr, (exec_dec32_copiedBack hI32).1,
      toInt_ofInt_toInt (n := 31) (by decide) hlo (Int.lt_add_one_of_le hhi), rfl, rfl⟩
  case u32 =>
    rw [kept hlo hhi (by norm_num) (by norm_num)] at hU32
    exact ⟨r', _, hr', (exec_dec32_copiedBack hU32).2,
      toNat_ofNat_toNat (n := 32) (by decide) hlo (Int.lt_add_one_of_le hhi), rfl, rfl⟩

end Sys2Proof.Machine
end

section
/-! SUPPORT. The scaler commands (43_scaler.md): the clamp enable's table, what TOENG and TORAW leave in the statements'
closed form, and DECS and ENCS as the scaler joined to the DEC or ENC of their kind. -/

namespace Sys2Proof.Machine

open Sys2Proof.Claims

/-- The statements' status word of three flags is the model's (40_datapath.md R107). -/
theorem flagStatus_eq_statusWord (short degen sat : Bool) :
    flagStatus short degen sat = statusWord short degen sat := by
  cases short <;> cases degen <;> cases sat <;> rfl

/-- A state's flags as the statements read them are those of its status word (10_state.md R26). -/
theorem flags_of_status {t : State} {short degen sat : Bool} (h : t.status = statusWord short degen sat) :
    t.short = short ∧ t.degen = degen ∧ t.sat = sat := by
  rw [State.short, State.degen, State.sat, h]
  exact ⟨statusWord_short .., statusWord_degen .., statusWord_sat ..⟩

section ClampEnable
variable {s : State}

/-- The tag's policy, where it is respected, overrides the global one (43_scaler.md R160). -/
theorem clampOn_of_precedence (h : s.cfg.clampRule = .precedence) :
    clampOn s = if s.respectTagClamp then s.tagClamp else s.globalClamp := by simp [clampOn, h]

/-- Either policy turns the clamp on (43_scaler.md R160). -/
theorem clampOn_of_disjunction (h : s.cfg.clampRule = .disjunction) :
    clampOn s = (s.respectTagClamp && s.tagClamp || s.globalClamp) := by simp [clampOn, h]

end ClampEnable

/-- Settles O43, each rule's equation against its eight rows. -/
theorem clampEnableTruthTable : Obligations.ClampEnableTruthTable := by
  intro s
  have precedenceRows : ∀ respect tag global : Bool, (if respect then tag else global) = true ↔
      (respect, tag, global) ∈
        [(false, false, true), (false, true, true), (true, true, false), (true, true, true)] := by decide
  have disjunctionRows : ∀ respect tag global : Bool, (respect && tag || global) = true ↔
      (respect, tag, global) ∈
        [(false, false, true), (false, true, true), (true, false, true), (true, true, false), (true, true, true)] := by
    decide
  refine ⟨fun h => ?_, fun h => ?_⟩
  · rw [clampOn_of_precedence h]; exact precedenceRows ..
  · rw [clampOn_of_disjunction h]; exact disjunctionRows ..

section Scaler
variable (s : State) (x : BitVec 64)

theorem toEng_of_clampOff (h : clampOn s = false) :
    toEng s x = ⟨if eq64 s.rawHi s.rawLo then s.engLo else engTransform s x, eq64 s.rawHi s.rawLo, false⟩ := by
  simp [toEng, h]

theorem toEng_of_clampOn (h : clampOn s = true) :
    toEng s x =
      let t := if eq64 s.rawHi s.rawLo then s.engLo else engTransform s x
      ⟨(clampEng t s.engLo s.engHi).1, eq64 s.rawHi s.rawLo, (clampEng t s.engLo s.engHi).2⟩ := by
  simp [toEng, h]

/-- A bound clamps to itself, whichever way the bounds are declared (43_scaler.md R161). -/
theorem clampEng_low_bound (a b : BitVec 64) : clampEng a a b = (a, false) := by
  cases h : lt64 b a with
  | false => exact clampEng_inside h (lt64_irrefl a) h
  | true =>
    rw [clampEng_swap h]
    exact clampEng_inside (lt64_asymm b a h) (lt64_asymm b a h) (lt64_irrefl a)

/-- On a degenerate scale `toEng` gives `engLow`, which the clamp leaves (43_scaler.md R162). -/
theorem toEng_of_degenerate (h : eq64 s.rawHi s.rawLo = true) : toEng s x = ⟨s.engLo, true, false⟩ := by
  cases hclamp : clampOn s with
  | false => rw [toEng_of_clampOff s x hclamp, h, if_pos rfl]
  | true => simp only [toEng_of_clampOn s x hclamp, h, if_true, clampEng_low_bound]

theorem toRaw_of_degenerate (h : eq64 s.engHi s.engLo = true) : toRaw s x = ⟨s.rawLo, true, false⟩ := by
  simp [toRaw, h]

theorem toRaw_of_not_degenerate (h : eq64 s.engHi s.engLo = false) :
    toRaw s x = ⟨rawTransform s x, false, false⟩ := by
  simp [toRaw, h]

theorem exec_toEng : exec .toEng s = .next (s.putScaled false (toEng s s.val)) := rfl

theorem exec_toRaw : exec .toRaw s = .next (s.putScaled false (toRaw s s.val)) := rfl

/-- What a command leaves that puts a scaled value in `RES` (43_scaler.md R165). -/
theorem putScaled_eq (short : Bool) (e : Scaled) :
    s.putScaled short e = { s with
      res := e.value, resType := .f64, status := flagStatus short e.degen e.sat, draws := s.draws + 1 } := by
  rw [flagStatus_eq_statusWord]; rfl

end Scaler

/-- Settles O46: the clamp leaves `engLow`, a bound of its own. -/
theorem degenerateScaleGivesEngLow : Obligations.DegenerateScaleGivesEngLow := by
  intro s h
  rw [exec_toEng, toEng_of_degenerate s s.val h, putScaled_eq]
  rfl

/-- Settles O45, with the clamp off and on. -/
theorem toEngScalesVal : Obligations.ToEngScalesVal := by
  intro s nan degen t
  refine ⟨fun h => ?clampOff, fun h => ?clampOn⟩
  case clampOff => rw [exec_toEng, toEng_of_clampOff s s.val h, putScaled_eq]; rfl
  case clampOn => rw [exec_toEng, toEng_of_clampOn s s.val h, putScaled_eq]; rfl

/-- Settles O47, on equal engineering bounds and on others. -/
theorem toRawScalesVal : Obligations.ToRawScalesVal := by
  intro s nan
  refine ⟨fun h => ?degenerate, fun h => ?inverse⟩
  case degenerate => rw [exec_toRaw, toRaw_of_degenerate s s.val h, putScaled_eq]; rfl
  case inverse => rw [exec_toRaw, toRaw_of_not_degenerate s s.val h, putScaled_eq]; rfl

/-- The statements' scaler input is `toF64` of a numeric result (43_scaler.md R164). -/
theorem scalerInput_toF64 {res : BitVec 64} {type : ResType} (h : type = .int ∨ type = .uint ∨ type = .f64) :
    ScalerInput res type (toF64 res type) := by
  obtain rfl | rfl | rfl := h
  · exact .inl ⟨rfl, rfl⟩
  · exact .inr (.inl ⟨rfl, rfl⟩)
  · exact .inr (.inr ⟨rfl, rfl⟩)

/-- A DEC that writes what a decode computes and a DECS that scales the same (43_scaler.md R167). The DECS leaves `VAL`
alone where TOENG is given the value in it: `toEng` does not read `VAL` itself. -/
theorem scalesDecode_of_effect {s : State} {dec decs : Instr} {d : Decoded} {n : Nat}
    (hdec : effect dec s = .ofDecoded d n) (hdecs : effect decs s = .ofDecs d s)
    (htype : d.type = .int ∨ d.type = .uint ∨ d.type = .f64) : ScalesDecode s dec decs := by
  let x := toF64 d.res d.type
  let decoded := (Effect.ofDecoded d n).apply s
  let scaled := State.putScaled { s with val := x } false (toEng s x)
  obtain ⟨hshort, -, -⟩ := flags_of_status (t := decoded) rfl
  obtain ⟨-, hdegen, hsat⟩ := flags_of_status (t := scaled) rfl
  refine ⟨decoded, x, scaled, ?_, scalerInput_toF64 htype, exec_toEng { s with val := x }, ?_⟩
  · rw [exec_eq_apply_effect, hdec]
  · have hwrites : (Effect.ofDecs d s).apply s = s.putScaled d.short (toEng s x) := rfl
    rw [exec_eq_apply_effect, hdecs, hwrites, putScaled_eq, hshort, hdegen, hsat]
    rfl

/-- Settles O48: each DECS scales what its DEC computes, which has a type of the scaler's. -/
theorem decsScalesTheDecodedValue : Obligations.DecsScalesTheDecodedValue := by
  intro bo wo off s
  refine ⟨?i16, ?u16, ?i32, ?u32, ?i64, ?u64, ?f32, ?f64⟩
  case i16 => exact scalesDecode_of_effect rfl rfl (.inl rfl)
  case u16 => exact scalesDecode_of_effect rfl rfl (.inr (.inl rfl))
  case i32 => exact scalesDecode_of_effect rfl rfl (.inl rfl)
  case u32 => exact scalesDecode_of_effect rfl rfl (.inr (.inl rfl))
  case i64 => exact scalesDecode_of_effect rfl rfl ((decodedI64_type bo wo off s).imp_right .inr)
  case u64 => exact scalesDecode_of_effect rfl rfl (.inr (decodedU64_type bo wo off s))
  case f32 => exact scalesDecode_of_effect rfl rfl (.inr (.inr rfl))
  case f64 => exact scalesDecode_of_effect rfl rfl (.inr (.inr rfl))

/-- An ENC that writes an encode of `VAL` and an ENCS that writes the same encode of `toRaw` (43_scaler.md R175). -/
theorem scalesEncode_of_effect {s : State} {enc encs : Instr} {encoded : BitVec 64 → State → Encoded} {n : Nat}
    (henc : ∀ v, effect enc { s with val := v } = .ofEncoded (encoded v s) false n)
    (hencs : effect encs s = .ofEncs encoded s) : ScalesEncode s enc encs := by
  let raw := s.putScaled false (toRaw s s.val)
  let written := (Effect.ofEncoded (encoded raw.res s) false n).apply { s with val := raw.res }
  obtain ⟨-, hdegen, -⟩ := flags_of_status (t := raw) rfl
  obtain ⟨-, -, hsat⟩ := flags_of_status (t := written) rfl
  refine ⟨raw, written, exec_toRaw s, ?_, ?_⟩
  · rw [exec_eq_apply_effect, henc]
  · rw [exec_eq_apply_effect, hencs, hdegen, hsat, flagStatus_eq_statusWord]
    rfl

/-- Settles O49: each ENCS writes what its ENC computes, which reads `VAL` as its argument only. -/
theorem encsEncodesTheScaledValue : Obligations.EncsEncodesTheScaledValue := by
  intro bo wo s
  refine ⟨?i16, ?u16, ?i32, ?u32, ?i64, ?u64, ?f32, ?f64⟩
  case i16 => exact scalesEncode_of_effect (encoded := encodedI16) (fun _ => rfl) rfl
  case u16 => exact scalesEncode_of_effect (encoded := encodedU16) (fun _ => rfl) rfl
  case i32 => exact scalesEncode_of_effect (encoded := encodedI32 bo wo) (fun _ => rfl) rfl
  case u32 => exact scalesEncode_of_effect (encoded := encodedU32 bo wo) (fun _ => rfl) rfl
  case i64 => exact scalesEncode_of_effect (encoded := encodedI64 bo wo) (fun _ => rfl) rfl
  case u64 => exact scalesEncode_of_effect (encoded := encodedU64 bo wo) (fun _ => rfl) rfl
  case f32 => exact scalesEncode_of_effect (encoded := encodedF32 bo wo) (fun _ => rfl) rfl
  case f64 => exact scalesEncode_of_effect (encoded := encodedF64 bo wo) (fun _ => rfl) rfl

end Sys2Proof.Machine
end

section
/-! SUPPORT. The control command NOP (44_control.md R190): its row of 30_encoding.md R79 holds the word 0 alone. -/

namespace Sys2Proof.Machine

open Sys2Proof.Claims

/-- `OP` and the bits above it are the whole word (30_encoding.md R71). -/
theorem field_above_op_ne_zero {w : Word32} (hop : field w 0 4 = 0) (hw : w ≠ 0#32) : field w 4 28 ≠ 0 := by
  intro habove
  apply hw
  apply BitVec.eq_of_toNat_eq
  have := w.isLt
  simp only [field, BitVec.toNat_ofNat] at hop habove ⊢
  omega

/-- R80 lists every word with NOP's `OP` but 0, in its family of the rows that have no operand fields. -/
theorem illegalByTable_of_op_zero {w : Word32} (hop : field w 0 4 = 0) (hw : w ≠ 0#32) : IllegalByTable w :=
  .inr <| .inr <| .inr <| .inr <| .inl ⟨.inl hop, field_above_op_ne_zero hop hw⟩

/-- Settles O29: NOP's word is 0, any other word with its `OP` is one of R80's, and NOP's effect is `STATUS` alone. -/
theorem nopClearsStatus : Obligations.NopClearsStatus := by
  refine ⟨?word, ?others, ?effect⟩
  case word => exact decode_of_encode_eq rfl rfl
  case others =>
    intro w hop hw
    exact (illegalWordsAreThoseListed w).2.mp (illegalByTable_of_op_zero hop hw)
  case effect => exact exec_eq_apply_effect .nop

end Sys2Proof.Machine
end

section
/-! SUPPORT. Illegal words, rejected accesses and runs (60_exceptions.md R200 to R204, 70_reset_and_hazards.md R220): none
of them stops the machine while the host stays in the window. -/

namespace Sys2Proof.Machine

open Sys2Proof.Claims

/-! Nothing in the window stops the machine, and serving one event leaves the others for later steps. -/

/-- Legal or illegal, a command word is executed to a next state (60_exceptions.md R200, R201). -/
theorem runCommand_completes (w : BitVec 32) (s : State) :
    ∃ t, runCommand w s = .next t ∧ t.pending = s.pending := by
  obtain ⟨i, _, hrun⟩ | ⟨_, _, hrun⟩ := runCommand_cases w s
  · exact ⟨_, hrun.trans (exec_eq_apply_effect i s), rfl⟩
  · exact ⟨_, hrun, rfl⟩

theorem busWrite_completes (off : Nat) (v : BitVec 32) (s : State) :
    ∃ t, busWrite off v s = .next t ∧ t.pending = s.pending := by
  obtain ⟨_, hwrite⟩ | ⟨_, hwrite⟩ := busWrite_cases off v s <;> rw [hwrite]
  · exact runCommand_completes v { s with cmd := v }
  · exact ⟨_, rfl, writeReg_pending ..⟩

theorem setResetLine_pending (asserted : Bool) (s : State) : (setResetLine asserted s).pending = s.pending := by
  obtain ⟨_, h⟩ | ⟨_, _, h⟩ | ⟨_, _, h⟩ := setResetLine_cases asserted s
  · rw [h]
  · rw [h]; rfl
  · rw [h]

/-- An event in the window is served to a next state, accepted or answered with BUSERR (60_exceptions.md R202). -/
theorem serve_completes {e : HostEvent} (h : e.inWindow = true) (s : State) :
    ∃ t, serve e s = .next t ∧ t.pending = s.pending := by
  cases e with
  | read off width =>
    obtain ⟨hout, _⟩ | ⟨_, _, _, hserve⟩ | ⟨_, _, hserve⟩ := serve_read_cases off width s
    · exact absurd (hout.symm.trans h) Bool.false_ne_true
    · exact ⟨_, hserve, rfl⟩
    · exact ⟨_, hserve, rfl⟩
  | write off width v =>
    obtain ⟨hout, _⟩ | ⟨_, _, _, hserve⟩ | ⟨_, _, hserve⟩ := serve_write_cases off width v s
    · exact absurd (hout.symm.trans h) Bool.false_ne_true
    · rw [hserve]; exact busWrite_completes off v (s.respond .done)
    · exact ⟨_, hserve, rfl⟩
  | resetLine asserted => exact ⟨_, rfl, setResetLine_pending asserted s⟩

/-- A step serves the oldest access, which is in the window, and leaves the others, which are too. -/
theorem step_completes {s : State} (h : s.HostInWindow) : ∃ t, step s = .next t ∧ t.HostInWindow := by
  obtain ⟨_, hstep⟩ | ⟨e, rest, hpend, hstep⟩ := step_cases s
  · exact ⟨s, hstep, h⟩
  · rw [State.HostInWindow, hpend, List.forall_mem_cons] at h
    obtain ⟨hfirst, hrest⟩ := h
    obtain ⟨t, hserve, hleft⟩ := serve_completes hfirst { s with pending := rest }
    exact ⟨t, hstep.trans hserve, by rwa [State.HostInWindow, hleft]⟩

theorem run_succ {s t : State} (h : step s = .next t) (k : Nat) :
    Host.Core.run Sys2Proof.core (k + 1) s = Host.Core.run Sys2Proof.core k t := by
  simp only [Host.Core.run, show Sys2Proof.core.step s = .next t from h]

/-- Settles O22, by induction on the number of steps: each step completes and keeps what the run keeps. -/
theorem runsInTheWindowNeverStop : Obligations.RunsInTheWindowNeverStop := by
  intro k
  induction k with
  | zero => exact fun s hwin => ⟨s, rfl, hwin, id, rfl⟩
  | succ k ih =>
    intro s hwin
    obtain ⟨s', hstep, hwin'⟩ := step_completes hwin
    obtain ⟨t, hrun, hwint, hlegal, hcfg⟩ := ih s' hwin'
    exact ⟨t, (run_succ hstep k).trans hrun, hwint, fun hs => hlegal (stepKeepsRegistersLegal s s' hs hstep),
      hcfg.trans (noStepChangesParameters s s' hstep)⟩

/-- The decoder rejects the words of R80, and a rejected word raises ILL (60_exceptions.md R201). -/
theorem runCommand_of_illegalByTable {w : BitVec 32} (h : IllegalByTable w) (s : State) :
    runCommand w s = .next (raiseIll s) := by
  obtain ⟨_, hdec⟩ := (illegalWordsAreThoseListed w).2.mp h
  simp only [runCommand, hdec]

/-- Settles O9: the write is accepted, the word is stored in `CMD`, and it raises ILL. -/
theorem illegalCommandOnlySetsIll : Obligations.IllegalCommandOnlySetsIll := by
  intro s w rest ⟨hreset, hpend⟩ hill
  refine ⟨raiseIll { s with pending := rest, response := .done, cmd := w }, ?_, rfl⟩
  rw [step_serve hpend, serve_write_accepted (s := { s with pending := rest }) w (by decide) rfl hreset]
  exact runCommand_of_illegalByTable hill _

/-! An access in the window that RWC rejects changes the bus response alone (60_exceptions.md R202). -/

section Rejected
variable {s : State} {rest : List HostEvent} {off width : Nat}

theorem step_read_rejected (hwin : off < 4096) (hbad : accessOk off width = false ∨ s.inReset = true)
    (hpend : s.pending = .read off width :: rest) :
    step s = .next { s with
      pending := rest, response := if s.cfg.busErrorSignalled then .busErr else .data 0#32 } := by
  rw [step_serve hpend, serve_read_rejected (s := { s with pending := rest }) hwin hbad]
  rfl

theorem step_write_rejected {v : BitVec 32} (hwin : off < 4096) (hbad : accessOk off width = false ∨ s.inReset = true)
    (hpend : s.pending = .write off width v :: rest) :
    step s = .next { s with pending := rest, response := if s.cfg.busErrorSignalled then .busErr else .done } := by
  rw [step_serve hpend, serve_write_rejected (s := { s with pending := rest }) v hwin hbad]
  rfl

end Rejected

/-- Releasing a line that is not asserted changes nothing (70_reset_and_hazards.md R220, notes/assumptions/5.md). -/
theorem setResetLine_of_released {s : State} (h : s.inReset = false) : setResetLine false s = s := by
  simp [setResetLine, h]

/-- Settles O11: an access in reset is rejected, and the line stores its level when it is asserted or repeated. -/
theorem accessInResetGetsBusErr : Obligations.AccessInResetGetsBusErr := by
  intro s rest off width v
  refine ⟨?read, ?write, ?asserted, ?released⟩
  case read => exact fun hwin hreset => step_read_rejected hwin (.inr hreset)
  case write => exact fun hwin hreset => step_write_rejected hwin (.inr hreset)
  case asserted => exact fun hpend => step_serve hpend
  case released =>
    intro hreset hpend
    rw [step_serve hpend, serve, setResetLine_of_released (s := { s with pending := rest }) hreset]

/-- Settles O12: the access is rejected, and the bus does not carry the error. -/
theorem badAccessWithoutErrorLine : Obligations.BadAccessWithoutErrorLine := by
  intro s rest off width v hwin hbad hsignal
  have hrejected : accessOk off width = false ∨ s.inReset = true := by
    rwa [accessOk_eq_false_iff, or_assoc]
  refine ⟨fun hpend => ?_, fun hpend => ?_⟩
  · rw [step_read_rejected hwin hrejected hpend, hsignal]
    rfl
  · rw [step_write_rejected hwin hrejected hpend, hsignal]
    rfl

end Sys2Proof.Machine
end

section
/-! SUPPORT. The release of reset and the idle machine (70_reset_and_hazards.md R220 to R222). -/

namespace Sys2Proof.Machine

theorem setResetLine_of_asserted {s : State} (h : s.inReset = true) :
    setResetLine false s = { s.resetRegisters with inReset := false } := by
  simp [setResetLine, h]

/-- Releasing an asserted line resets the registers; the parameters, the rest of the host's list, the bus response and
the draw counter stay (70_reset_and_hazards.md R221). -/
theorem step_reset_released {s : State} {rest : List HostEvent} (hreset : s.inReset = true)
    (hpend : s.pending = .resetLine false :: rest) :
    step s = .next { s.resetRegisters with inReset := false, pending := rest } := by
  rw [step_serve hpend, serve, setResetLine_of_asserted (s := { s with pending := rest }) hreset]
  rfl

/-- What `resetRegisters` keeps of a state is not among its registers, so no slot shows it. -/
theorem busRead_resetRegisters (off : Nat) (s : State) (level : Bool) (rest : List HostEvent) :
    busRead off { s.resetRegisters with inReset := level, pending := rest } = busRead off State.reset := rfl

/-- Settles O13: the released machine reads as the reset state does, whose slots are `resetStateReadsAsTheTable`. -/
theorem resetReleaseRestoresResetValues : Obligations.ResetReleaseRestoresResetValues := by
  intro s rest hreset hpend
  obtain ⟨_, htable⟩ := resetStateReadsAsTheTable
  refine ⟨_, step_reset_released hreset hpend, rfl, rfl, fun off hwin halign => ?_⟩
  rw [busRead_resetRegisters, htable off hwin halign]

/-- Settles O18: no event is there to serve. -/
theorem waitsForTheHost : Obligations.WaitsForTheHost := fun _ hpend => step_idle hpend

end Sys2Proof.Machine
end
